-- ==== Sys2Proof/Word.lean ====
section
/-! DEFINITION. The word types of the hardware: everything it stores or moves is made of bytes
(00_scope R9), a payload and a frame are byte strings (R9, 30_encoding R60), and a colour is a
32-bit operand of the port (30_encoding R71). -/

namespace Sys2Proof

/-- A byte, 0 to 255 (R9). -/
abbrev Byte := BitVec 8

/-- A byte string handed to the frame encoder (R9, R11). -/
abbrev Payload := List Byte

/-- A byte string that leaves on `TX`; every frame the block makes has 64 bytes (R60). -/
abbrev Frame := List Byte

/-- A colour as the port carries it: 32 bits, so that an illegal one can be expressed (R71). -/
abbrev Colour := BitVec 32

end Sys2Proof
end

