-- ==== Sys2Proof/Syntax.lean ====
section
/-! DEFINITION. The sixteen operations of the block, one constructor per row of
spec/opcode_table.json (30_encoding R70), with the operands and port widths of R71. -/

namespace Sys2Proof

/-- One operation with its operands as one value (00_scope R8). -/
inductive Instr where
  /-- `SEND_RAW P` (R123). -/
  | sendRaw (payload : Payload)
  /-- `BEGIN` (R124). -/
  | beginTx
  /-- `END` (R125). -/
  | endTx
  /-- `RAW_SETTING id, data` (R100). -/
  | rawSetting (id : Byte) (data : List Byte)
  /-- `RAW_KEY_RGB key_offset, colors` (R101). -/
  | rawKeyRgb (keyOffset : BitVec 16) (colors : List Colour)
  /-- `SET_MODE mode` (R102). -/
  | setMode (mode : Byte)
  /-- `SET_BRIGHTNESS level` (R103). -/
  | setBrightness (level : Byte)
  /-- `SET_SPEED speed` (R104). -/
  | setSpeed (speed : Byte)
  /-- `SET_DIRECTION forward` (R105). -/
  | setDirection (forward : Bool)
  /-- `SET_COLORFUL enabled` (R106). -/
  | setColorful (enabled : Bool)
  /-- `SET_COLOR rgb` (R107). -/
  | setColor (rgb : Colour)
  /-- `SET_POLLING_RATE rate` (R108). -/
  | setPollingRate (rate : Byte)
  /-- `SET_GRADIENT level` (R109). -/
  | setGradient (level : Byte)
  /-- `FE.PUSH b` (R85). -/
  | fePush (b : Byte)
  /-- `FE.FIN` (R86). -/
  | feFin
  /-- `FE.POP` (R88). -/
  | fePop
  deriving DecidableEq, Repr

end Sys2Proof
end

