-- ==== Sys2Proof/Config.lean ====
section
/-! DEFINITION. The fixed parameters of 00_scope R4, the open parameters of R5, and the free
answers of the transport. -/

namespace Sys2Proof.Config

/-- `FRAME_SIZE`: bytes in every frame (R4). -/
abbrev frameSize : Nat := 64
/-- `HEADER_SIZE`: the report type and the two checksum bytes (R4). -/
abbrev headerSize : Nat := 3
/-- `MAX_PAYLOAD` (R4). -/
abbrev maxPayload : Nat := 61
/-- `REPORT_TYPE`: byte 0 of every frame (R4). -/
abbrev reportType : Byte := 0x04
/-- `OP_BEGIN`: the begin-marker payload byte (R4). -/
abbrev opBegin : Byte := 0x01
/-- `OP_END`: the end-marker payload byte (R4). -/
abbrev opEnd : Byte := 0x02
/-- `OP_SETTING`: first byte of a setting payload (R4). -/
abbrev opSetting : Byte := 0x06
/-- `OP_KEYRGB`: first byte of a key-colour payload (R4). -/
abbrev opKeyRgb : Byte := 0x11
/-- `MAX_COLORS`: colours that fit a frame (R4, C11). -/
abbrev maxColors : Nat := 18
/-- `MODE_MIN` (R4). -/
abbrev modeMin : Nat := 1
/-- `MODE_MAX` (R4, C1). -/
abbrev modeMax : Nat := 0x21
/-- `LEVEL_MAX`: bound of brightness, speed, polling rate and gradient (R4). -/
abbrev levelMax : Nat := 3
/-- `COLOR_MAX` (R4). -/
abbrev colorMax : Nat := 0xFFFFFF
/-- The largest key offset whose triple fits 16 bits (R101, D13). -/
abbrev keyOffsetMax : Nat := 21845

/-- The open parameters of R5 that a rule or the transport's behaviour depends on. They are fixed
for one block; `State` carries them so that a statement about every state is about every profile
(assumption log, entry 9). The fourth, `CMD_SERIALISATION`, on which no rule depends, is
`CmdSerialisation`. -/
structure Profile where
  /-- `HAS_CB`: the command builders are present. -/
  hasCb : Bool
  /-- `HAS_TS`: the transaction sequencer is present. -/
  hasTs : Bool
  /-- `TRANSPORT_TIMEOUT`: the platform turns a transport that does not answer into a failure. -/
  transportTimeout : Bool
  deriving DecidableEq, Repr

/-- `CMD_SERIALISATION` (R5, R8): how an operation and its operands are put on wires, and what the
block reads from them (none: no operation). It has no default and is an argument of whatever meets
the wires (`State.offerWires`); inside, an operation is one value and nothing sees it. -/
structure CmdSerialisation where
  /-- The bytes the host puts on the wires for an operation. -/
  write : Instr → List Byte
  /-- The operation the block takes from the wires. -/
  read : List Byte → Option Instr

/-- The defaults of R5: profile FULL, no transport timeout. -/
def defaultProfile : Profile := ⟨true, true, false⟩

/-- Free value: whether the write of the `n`-th send succeeds, when the state lists no answer for
it (R36, R120; assumption log, entry 3). -/
opaque freeWrOk : Nat → Bool

/-- Free value: whether the read of the `n`-th send succeeds, when the state lists no answer for
it (R36, R120; assumption log, entry 3). -/
opaque freeRdOk : Nat → Bool

end Sys2Proof.Config
end

