-- ==== Sys2Proof/WellFormed.lean ====
section
/-! DEFINITION. Which operations a port can carry. The scalar widths of 30_encoding R71 are in the
types of `Instr`; what is left to check is the length of the byte strings and colour lists. -/

namespace Sys2Proof

/-- The port's limit on the length of a byte string or colour list (R71, D12). -/
abbrev portListMax : Nat := 255

/-- The operands fit the port: lists have at most 255 elements (R71). -/
def Instr.wellFormed : Instr → Bool
  | .sendRaw p => p.length ≤ portListMax
  | .rawSetting _ d => d.length ≤ portListMax
  | .rawKeyRgb _ cs => cs.length ≤ portListMax
  | .beginTx => true
  | .endTx => true
  | .setMode _ => true
  | .setBrightness _ => true
  | .setSpeed _ => true
  | .setDirection _ => true
  | .setColorful _ => true
  | .setColor _ => true
  | .setPollingRate _ => true
  | .setGradient _ => true
  | .fePush _ => true
  | .feFin => true
  | .fePop => true

/-- An operation some port can carry (R71). -/
abbrev WellFormed (i : Instr) : Prop := i.wellFormed = true

end Sys2Proof
end

