-- ==== Sys2Proof/Decode.lean ====
section
/-! DEFINITION. From bytes to operations and back.

The operation codes are those of 30_encoding R70. How the operands follow the code is the open
parameter `CMD_SERIALISATION` (00_scope R5, R8), which the machine takes as an argument
(`Config.CmdSerialisation`). `decode` and `encode` are the model's own instance of it, a DESIGN
CHOICE (assumption log, entry 1): the code, then the operands in the order of R71, high byte first,
a list after a byte that counts its elements, a Boolean as `00` or `01`.

`decodeTableWord` reads the words of spec/opcode_table.json, which for some rows are patterns of the
payload or the frame the operation sends and not of its code (R74; entry 14). -/

namespace Sys2Proof

/-- Why a byte string is not an operation. -/
inductive DecodeError where
  /-- Nothing was offered. -/
  | noCode
  /-- R70 does not assign this code (R152). -/
  | unassigned (op : Byte)
  /-- The code is assigned but its operands are missing or no value of their type. -/
  | badOperands (op : Byte)
  deriving DecidableEq, Repr

/-- The code of an operation on `CMD`, `IN` or `OUT` (R70). -/
def opcode : Instr → Byte
  | .sendRaw _ => 0x00
  | .beginTx => 0x01
  | .endTx => 0x02
  | .rawSetting _ _ => 0x06
  | .rawKeyRgb _ _ => 0x11
  | .setMode _ => 0x20
  | .setBrightness _ => 0x21
  | .setSpeed _ => 0x22
  | .setDirection _ => 0x23
  | .setColorful _ => 0x24
  | .setColor _ => 0x25
  | .setPollingRate _ => 0x2F
  | .setGradient _ => 0x31
  | .fePush _ => 0x80
  | .feFin => 0x81
  | .fePop => 0x82

/-- The first byte of `bs`. -/
def readByte : List Byte → Option (Byte × List Byte)
  | b :: r => some (b, r)
  | [] => none

/-- A Boolean operand: `01` is true, `00` is false (entry 1). -/
def readBool : List Byte → Option (Bool × List Byte)
  | b :: r => if b = 1 then some (true, r) else if b = 0 then some (false, r) else none
  | [] => none

/-- A 16-bit operand, high byte first (entry 1). -/
def readHalf : List Byte → Option (BitVec 16 × List Byte)
  | b₁ :: b₀ :: r => some (b₁ ++ b₀, r)
  | _ => none

/-- A 32-bit operand, high byte first (entry 1). -/
def readColour : List Byte → Option (Colour × List Byte)
  | b₃ :: b₂ :: b₁ :: b₀ :: r => some (b₃ ++ b₂ ++ b₁ ++ b₀, r)
  | _ => none

/-- `n` operands of one kind, one after another. -/
def readMany {α : Type} (read : List Byte → Option (α × List Byte)) :
    Nat → List Byte → Option (List α × List Byte)
  | 0, bs => some ([], bs)
  | n + 1, bs =>
    match read bs with
    | none => none
    | some (a, r) =>
      match readMany read n r with
      | none => none
      | some (as, r') => some (a :: as, r')

/-- A list operand: a byte that counts its elements, then the elements (entry 1). -/
def readCounted {α : Type} (read : List Byte → Option (α × List Byte)) :
    List Byte → Option (List α × List Byte)
  | n :: r => readMany read n.toNat r
  | [] => none

/-- The operation made from what an operand reader found, or the refusal of its operands. -/
def withOperands {α : Type} (op : Byte) (make : α → Instr) :
    Option (α × List Byte) → Except DecodeError (Instr × List Byte)
  | some (a, r) => .ok (make a, r)
  | none => .error (.badOperands op)

/-- The operation of code `op` whose operands stand at the front of `r` (R70, R71), and the bytes
after them. -/
def decodeOperands (op : Byte) (r : List Byte) : Except DecodeError (Instr × List Byte) :=
  match op.toNat with
  | 0x00 => withOperands op .sendRaw (readCounted readByte r)
  | 0x01 => .ok (.beginTx, r)
  | 0x02 => .ok (.endTx, r)
  | 0x06 =>
    match r with
    | id :: r' => withOperands op (.rawSetting id) (readCounted readByte r')
    | [] => .error (.badOperands op)
  | 0x11 =>
    match readHalf r with
    | some (o, r') => withOperands op (.rawKeyRgb o) (readCounted readColour r')
    | none => .error (.badOperands op)
  | 0x20 => withOperands op .setMode (readByte r)
  | 0x21 => withOperands op .setBrightness (readByte r)
  | 0x22 => withOperands op .setSpeed (readByte r)
  | 0x23 => withOperands op .setDirection (readBool r)
  | 0x24 => withOperands op .setColorful (readBool r)
  | 0x25 => withOperands op .setColor (readColour r)
  | 0x2F => withOperands op .setPollingRate (readByte r)
  | 0x31 => withOperands op .setGradient (readByte r)
  | 0x80 => withOperands op .fePush (readByte r)
  | 0x81 => .ok (.feFin, r)
  | 0x82 => .ok (.fePop, r)
  | _ => .error (.unassigned op)

/-- The operation at the front of a byte string and the bytes after it, or why there is none.
Total; every unassigned code is refused by name (R152). -/
def decode : List Byte → Except DecodeError (Instr × List Byte)
  | [] => .error .noCode
  | op :: r => decodeOperands op r

/-- A 16-bit operand as bytes, high byte first (entry 1). -/
def halfBytes (v : BitVec 16) : List Byte := [v.extractLsb' 8 8, v.extractLsb' 0 8]

/-- A 32-bit operand as bytes, high byte first (entry 1). -/
def colourBytes (c : Colour) : List Byte :=
  [c.extractLsb' 24 8, c.extractLsb' 16 8, c.extractLsb' 8 8, c.extractLsb' 0 8]

/-- A Boolean operand as a byte (entry 1). -/
def boolByte (b : Bool) : Byte := if b then 1 else 0

/-- The operand bytes that follow the code (R71, entry 1). -/
def operandBytes : Instr → List Byte
  | .sendRaw p => BitVec.ofNat 8 p.length :: p
  | .beginTx => []
  | .endTx => []
  | .rawSetting id d => id :: BitVec.ofNat 8 d.length :: d
  | .rawKeyRgb o cs => halfBytes o ++ BitVec.ofNat 8 cs.length :: cs.flatMap colourBytes
  | .setMode m => [m]
  | .setBrightness v => [v]
  | .setSpeed v => [v]
  | .setDirection f => [boolByte f]
  | .setColorful e => [boolByte e]
  | .setColor c => colourBytes c
  | .setPollingRate v => [v]
  | .setGradient v => [v]
  | .fePush b => [b]
  | .feFin => []
  | .fePop => []

/-- The bytes of an operation on its port: its code (R70) and its operands (entry 1). -/
def encode (i : Instr) : List Byte := opcode i :: operandBytes i

/-- The model's own serialisation: a transfer is the bytes of one operation and no more (entries 1
and 15). -/
def modelSerialisation : Config.CmdSerialisation where
  write := encode
  read := fun bytes =>
    match decode bytes with
    | .ok (i, []) => some i
    | _ => none

/-! ### The words of spec/opcode_table.json -/

/-- The `n` bytes of a table word; the table numbers the first byte as the most significant
(R74). -/
def tableBytes : Nat → Nat → List Byte
  | 0, _ => []
  | n + 1, w => BitVec.ofNat 8 (w >>> (8 * n)) :: tableBytes n w

/-- The setter whose row matches a setting payload with this id and these data bytes, if there is
one (R66, R74: the setters are tried before `RAW_SETTING`). A limit the table's mask can express
is checked; the mode's, which it cannot, is left to `SET_MODE` itself, and a direction byte that is
not `01` reads as not forward (entry 14). -/
def tableSetter (id : Byte) (data : List Byte) : Option Instr :=
  match id.toNat, data with
  | 0x00, [m] => some (.setMode m)
  | 0x01, [v] => if v.toNat ≤ 3 then some (.setBrightness v) else none
  | 0x02, [v] => if v.toNat ≤ 3 then some (.setSpeed v) else none
  | 0x03, [d] => some (.setDirection (decide (d = 0x01)))
  | 0x04, [e] => if e = 0x01 then some (.setColorful true)
      else if e = 0x00 then some (.setColorful false) else none
  | 0x05, [x, y, z] => some (.setColor (0#8 ++ x ++ y ++ z))
  | 0x0F, [v] => if v.toNat ≤ 3 then some (.setPollingRate v) else none
  | 0x11, [v] => if v.toNat ≤ 3 then some (.setGradient v) else none
  | _, _ => none

/-- The operation whose row of the table matches these leading bytes of a payload or frame, every
byte after them being zero (R65, R74). A frame does not tell its payload (R67); the one frame read
here is the all-zero one after the report type, which `SEND_RAW []` sends. -/
def readTableRow : List Byte → Option Instr
  | [b₀, b₁, b₂] => if b₀ = 0x04 ∧ b₁ = 0 ∧ b₂ = 0 then some (.sendRaw []) else none
  | b₀ :: b₁ :: b₂ :: b₃ :: b₄ :: rest =>
    if b₀ = 0x06 ∧ b₃ = 0 ∧ b₄ = 0 then
      let data := rest ++ List.replicate (b₁.toNat - rest.length) 0
      if data.length ≠ b₁.toNat then none
      else match tableSetter b₂ data with
        | some i => some i
        | none => some (.rawSetting b₂ data)
    else if b₀ = 0x11 ∧ b₄ = 0 then
      let offset := (b₃ ++ b₂).toNat
      if rest ≠ [] ∨ b₁.toNat % 3 ≠ 0 ∨ offset % 3 ≠ 0 then none
      else some (.rawKeyRgb (BitVec.ofNat 16 (offset / 3)) (List.replicate (b₁.toNat / 3) 0))
    else none
  | _ => none

/-- The operation `decode` reads from a one-byte table word, its operand bytes being zero: such a
word is a code of R70 (and for `BEGIN` and `END` the same byte is also the payload, D26). -/
def decodeCodeByte (w : Nat) : Option Instr :=
  match decode (BitVec.ofNat 8 w :: List.replicate 8 0) with
  | .ok (i, _) => some i
  | .error _ => none

/-- The operation whose bits in spec/opcode_table.json are `w`, numbered as the table numbers them
(R74: first byte most significant), with zeros for every bit beyond `nbits` (entry 14). -/
def decodeTableWord (nbits w : Nat) : Option Instr :=
  if nbits = 8 then decodeCodeByte w else readTableRow (tableBytes (nbits / 8) w)

end Sys2Proof
end

