-- ==== Sys2Proof/Machine/State.lean ====
section
/-! DEFINITION. The state of the block (10_state R20 to R33), what its environment still has in
store for it (00_scope R6, R8), what it has given back, and the reasons a step can stop. -/

namespace Sys2Proof.Machine

open Sys2Proof

/-- The result codes (60_exceptions R140). -/
inductive ResultCode where
  /-- 0: the operation completed without error. -/
  | ok
  /-- 1: discovery failure; never raised by the block (R141). -/
  | deviceNotFound
  /-- 2: the frame would exceed 64 bytes (R142). -/
  | payloadTooLarge
  /-- 3: an argument outside its range (R143). -/
  | valueOutOfRange
  /-- 4: the write or the read of a send failed (R144). -/
  | transportFailure
  /-- 5: `BEGIN` inside a transaction (R145). -/
  | transactionAlreadyOpen
  /-- 6: `END` outside a transaction (R146). -/
  | transactionNotOpen
  /-- 7: an operation while `fault` is 1 (R147). -/
  | sessionFaulted
  deriving DecidableEq, Repr

/-- The phase of the byte-level encoder (R27). -/
inductive Phase where
  /-- Payload bytes are accepted. -/
  | load
  /-- Frame bytes are offered. -/
  | emit
  deriving DecidableEq, Repr

/-- The transaction state (R30). -/
inductive TsState where
  /-- No transaction is open. -/
  | idle
  /-- A begin marker has been sent and its end marker has not. -/
  | inTransaction
  deriving DecidableEq, Repr

/-- The byte store PBUF as (address, byte) pairs in canonical form (20_memory R40, R50): addresses
strictly rising, no byte listed that reads as an unlisted one does. -/
abbrev Memory := List Host.Cell

/-- The registers of the frame encoder, byte level (R23 to R28). -/
structure FrameEncoder where
  /-- `FE.pbuf`: the payload buffer (R23). -/
  pbuf : Memory
  /-- `FE.plen`: payload bytes accepted so far (R24). -/
  plen : BitVec 6
  /-- `FE.csum`: the checksum accumulator (R25). -/
  csum : BitVec 16
  /-- `FE.ovf`: more than 61 bytes were pushed (R26). -/
  ovf : Bool
  /-- `FE.phase` (R27). -/
  phase : Phase
  /-- `FE.oidx`: the next frame byte to emit (R28). -/
  oidx : BitVec 6
  deriving DecidableEq, Repr

/-- What the transport does about one half of a send: answers with success, answers with failure,
or never answers (R120, R170). -/
inductive Signal where
  /-- `wr_ok` or `rd_ok` is true. -/
  | yes
  /-- `wr_ok` or `rd_ok` is false. -/
  | no
  /-- No answer ever comes. -/
  | never
  deriving DecidableEq, Repr

/-- The oracle's answers to one `TransportSend` (R36, R120). -/
structure Answer where
  /-- `wr_ok`. -/
  wr : Signal
  /-- `rd_ok`, looked at only when the write succeeded. -/
  rd : Signal
  /-- `resp`: the 64 response bytes, discarded; nothing reads them. -/
  resp : Vector Byte 64
  deriving DecidableEq, Repr

/-- How a send ended (R120). -/
inductive SendEnd where
  /-- Written, and the response read. -/
  | ok
  /-- The write failed; no read was attempted. -/
  | writeFailed
  /-- Written; the read failed. -/
  | readFailed
  deriving DecidableEq, Repr

/-- A frame of the TX history, with how its send ended (R33). -/
structure Sent where
  /-- The frame offered to the transport. -/
  frame : Frame
  /-- The transport's answer. -/
  result : SendEnd
  deriving DecidableEq, Repr

/-- What the block gives back on a port (R8). -/
inductive Reply where
  /-- On `RES`: the result code of an operation (60_exceptions R140). -/
  | res (code : ResultCode)
  /-- On `OUT`: what `FE.POP` returns (R88). -/
  | popped (byte : Byte) (first last : Bool)
  /-- On `STAT`: the value of status register `number` (R34). -/
  | stat (number : Byte) (value : BitVec 16)
  deriving DecidableEq, Repr

/-- What the host offers on a port (R8). -/
inductive Offer where
  /-- On `CMD`, `IN` or `OUT`: an operation with its operands, as one value. -/
  | op (i : Instr)
  /-- On `CMD`: an `op` value that R70 does not assign (60_exceptions R152). -/
  | unassigned (code : Byte)
  /-- On `STAT`: a read of the status register of this number (R34). -/
  | stat (number : Byte)
  /-- On `rst`: a reset request (R160). -/
  | rst
  deriving DecidableEq, Repr

/-- The machine. The first four fields are all the state the spec gives the block (R20, R37). -/
structure State where
  /-- The FE registers (R23 to R28). -/
  fe : FrameEncoder
  /-- `TS.state` (R30). -/
  ts : TsState
  /-- `fault`: a send has failed since reset (R31). -/
  fault : Bool
  /-- `err`: the result code of the last operation that returned one (R32). -/
  err : ResultCode
  /-- The open parameters of this block (R5); no step changes them. -/
  profile : Config.Profile
  /-- The oracle's answers to come, one per send (R36); after the last one they are free values. -/
  answers : List Answer
  /-- How many answers have been drawn; picks the free value (assumption log, entry 3). -/
  draws : Nat
  /-- What the host has offered and the block has not taken, oldest first. -/
  offers : List Offer
  /-- The TX history: every frame offered to the transport since reset, oldest first (R33). -/
  txHistory : List Sent
  /-- What the block has given back since reset, oldest first (R8). -/
  replies : List Reply
  deriving DecidableEq, Repr

/-- FE empty (R29), with nothing stored in `FE.pbuf` (its reset value is unspecified, R23; what it
reads as is the model's choice, assumption log, entry 8). -/
def FrameEncoder.reset : FrameEncoder :=
  { pbuf := [], plen := 0, csum := 0, ovf := false, phase := .load, oidx := 0 }

/-- The machine right after reset (R20, R160), in the default profile (R5), with nothing offered
and no answer listed. -/
def State.reset : State :=
  { fe := FrameEncoder.reset, ts := .idle, fault := false, err := .ok,
    profile := Config.defaultProfile, answers := [], draws := 0, offers := [],
    txHistory := [], replies := [] }

/-- Why the machine stops. None of these is an error of the spec's: the spec's errors are result
codes and the machine goes on after them (R150). -/
inductive Fault where
  /-- Raised by `FE.PUSH` and `FE.FIN` in phase EMIT: the offer is held, there is no step (R89).
  Safe: the hardware has no transition here either. -/
  | inputHeld
  /-- Raised by `FE.POP` in phase LOAD: the offer is held, there is no step (R89). Safe: the
  hardware has no transition here either. -/
  | outputHeld
  /-- Raised by any operation that sends, when the transport never answers and the platform has no
  timeout: the operation never completes (R170). `step` then takes an offer of another port, and
  answers this only where there is none. Safe: the hardware goes no further either. -/
  | transportSilent
  deriving DecidableEq, Repr

/-- Why an offer has no meaning. -/
inductive Refusal where
  /-- Raised by `exec` for an instruction the model gives no meaning yet; safe. -/
  | notModelled (mnemonic : String)
  /-- Raised by `step` for a code that R70 does not assign: the port does not accept it (R152).
  Safe: the hardware has no step either. -/
  | unassignedCode (op : Byte)
  /-- Raised by the builder operations when `HAS_CB` is false: the port does not accept them
  (R152). Safe: the hardware has no step either. -/
  | builderAbsent
  deriving DecidableEq, Repr

/-- What a step answers. -/
abbrev Outcome := Host.Outcome State Fault Refusal

end Sys2Proof.Machine
end

