-- ==== Sys2Proof/Machine/Flags.lean ====
section
/-! DEFINITION. The one-bit conditions of 10_state R35 as bits, and the read-only status registers
of R34 that show them. There are no arithmetic condition codes (R35). -/

namespace Sys2Proof.Machine

/-- The 3-bit number of a result code (60_exceptions R140). -/
def ResultCode.bits : ResultCode → BitVec 3
  | .ok => 0
  | .deviceNotFound => 1
  | .payloadTooLarge => 2
  | .valueOutOfRange => 3
  | .transportFailure => 4
  | .transactionAlreadyOpen => 5
  | .transactionNotOpen => 6
  | .sessionFaulted => 7

/-- `FE.phase` as a bit: LOAD is 0, EMIT is 1 (R27). -/
def Phase.bit : Phase → BitVec 1
  | .load => 0
  | .emit => 1

/-- `TS.state` as a bit: Idle is 0, InTransaction is 1 (R30). -/
def TsState.bit : TsState → BitVec 1
  | .idle => 0
  | .inTransaction => 1

/-- A transaction is open: only a block with TS has one (R30, R135). -/
def State.transactionOpen (s : State) : Bool := s.profile.hasTs && s.ts == .inTransaction

/-- Bit 0 of `STATUS`: `TS.state`, or 0 without TS (R34). -/
def State.tsBit (s : State) : BitVec 1 := if s.profile.hasTs then s.ts.bit else 0

/-- `STATUS` (R34): bit 7 reads 0, bits 6:4 `err`, bit 3 `FE.ovf`, bit 2 `FE.phase`, bit 1
`fault`, bit 0 `TS.state`. -/
def State.status (s : State) : Byte :=
  0#1 ++ s.err.bits ++ BitVec.ofBool s.fe.ovf ++ s.fe.phase.bit ++ BitVec.ofBool s.fault ++ s.tsBit

/-- The status register of this number (R34): 0 `STATUS`, 1 `FE_PLEN`, 2 `FE_CSUM`, 3 `FE_OIDX`,
the rest reserved and read as 0. The narrower registers are widened with zeros. -/
def State.readStat (s : State) (number : Byte) : BitVec 16 :=
  match number.toNat with
  | 0 => s.status.setWidth 16
  | 1 => s.fe.plen.setWidth 16
  | 2 => s.fe.csum
  | 3 => s.fe.oidx.setWidth 16
  | _ => 0

end Sys2Proof.Machine
end

