-- ==== Sys2Proof/Machine/Memory.lean ====
section
/-! DEFINITION. The payload buffer PBUF as memory: `MemRead` and `MemWrite` of one byte
(20_memory R40, R50), over a list of cells in one canonical form. -/

namespace Sys2Proof.Machine

/-- What an address nothing has written reads as. The spec leaves the reset contents of `FE.pbuf`
open (10_state R23, R37): DESIGN CHOICE, assumption log, entry 8. -/
def unlistedByte : Byte := 0

/-- The size of PBUF: addresses 0 to 60 (R40). -/
abbrev pbufSize : Nat := 61

/-- `MemRead(a, 1)` (R50). -/
def Memory.read : Memory → Nat → Byte
  | [], _ => unlistedByte
  | (b, v) :: m, a => if a = b then v else if a < b then unlistedByte else Memory.read m a

/-- A cell in front of `m`, unless it reads as an unlisted one. -/
def Memory.cons (a : Nat) (v : Byte) (m : Memory) : Memory :=
  if v = unlistedByte then m else (a, v) :: m

/-- `MemWrite(a, 1, v)` (R50), keeping the canonical form. -/
def Memory.write : Memory → Nat → Byte → Memory
  | [], a, v => Memory.cons a v []
  | (b, w) :: m, a, v =>
    if a = b then Memory.cons a v m
    else if a < b then Memory.cons a v ((b, w) :: m)
    else (b, w) :: Memory.write m a v

/-- The canonical form from address `lo` on: addresses rise strictly, lie in PBUF (R40), and no
listed byte equals what an unlisted address reads as. -/
def Memory.wfFrom : Nat → Memory → Bool
  | _, [] => true
  | lo, (a, v) :: m =>
    decide (lo ≤ a) && decide (a < pbufSize) && decide (v ≠ unlistedByte) && Memory.wfFrom (a + 1) m

/-- The memory is in canonical form. -/
def Memory.wf (m : Memory) : Bool := Memory.wfFrom 0 m

end Sys2Proof.Machine
end

