-- ==== Sys2Proof/Machine/Operands.lean ====
section
/-! DEFINITION. How operands become payload bytes: the byte orders of 20_memory R42, the field
assembly of 30_encoding R64, and the builders of 41_command_builders R100 to R113. Every builder is
a pure function from operands to a payload or an error (R112). -/

namespace Sys2Proof.Machine

/-- `le16(v)`: low byte first (00_scope R9, 20_memory R42). -/
def le16 (v : BitVec 16) : List Byte := [v.extractLsb' 0 8, v.extractLsb' 8 8]

/-- `be24(c)`: bits 23:16, then 15:8, then 7:0 (00_scope R9, 20_memory R42). -/
def be24 (c : Colour) : List Byte :=
  [c.extractLsb' 16 8, c.extractLsb' 8 8, c.extractLsb' 0 8]

/-- What a builder answers: a payload, or the error it raises (R113). -/
abbrev Built := Except ResultCode Payload

/-- `raw_setting(id, data)`, payload format P-SET (R62, R100). The count is one byte; for any
payload that fits a frame it does not wrap (R115). -/
def rawSetting (id : Byte) (data : List Byte) : Payload :=
  [Config.opSetting, BitVec.ofNat 8 data.length, id, 0, 0] ++ data

/-- `raw_key_rgb(key_offset, colors)`, payload format P-KEY (R63, R101), for operands that have
passed the checks of `buildRawKeyRgb`. -/
def rawKeyRgb (keyOffset : BitVec 16) (colors : List Colour) : Payload :=
  [Config.opKeyRgb, BitVec.ofNat 8 (3 * colors.length)] ++ le16 (keyOffset * 3) ++ [0]
    ++ colors.flatMap be24

/-- A setting payload if the argument passed its check, and `ValueOutOfRange` if not (R143). -/
def checkedSetting (inRange : Bool) (id : Byte) (data : List Byte) : Built :=
  if inRange then .ok (rawSetting id data) else .error .valueOutOfRange

/-- A level-like argument is 0 to 3 (R4, R103, R104, R108, R109). -/
def levelInRange (v : Byte) : Bool := v.toNat ≤ Config.levelMax

/-- A colour is 0 to `0xFFFFFF` (R4, R101, R107). -/
def colourInRange (c : Colour) : Bool := c.toNat ≤ Config.colorMax

/-- `Build(SEND_RAW P)`: the payload itself, unchecked (R113, R123). -/
def buildSendRaw (p : Payload) : Built := .ok p

/-- The begin marker (R61, R110). -/
def beginMarker : Payload := [Config.opBegin]

/-- The end marker (R61, R111). -/
def endMarker : Payload := [Config.opEnd]

/-- `Build(RAW_SETTING id, data)` (R100): no check of `id`; more than 56 data bytes are refused
where the frame encoder refuses the payload. -/
def buildRawSetting (id : Byte) (data : List Byte) : Built := .ok (rawSetting id data)

/-- `Build(RAW_KEY_RGB key_offset, colors)` (R101): every colour, then the offset, then the count. -/
def buildRawKeyRgb (keyOffset : BitVec 16) (colors : List Colour) : Built :=
  if !colors.all colourInRange then .error .valueOutOfRange
  else if keyOffset.toNat > Config.keyOffsetMax then .error .valueOutOfRange
  else if colors.length > Config.maxColors then .error .payloadTooLarge
  else .ok (rawKeyRgb keyOffset colors)

/-- `Build(SET_MODE mode)` (R102). The mode-name table is not consulted (R116). -/
def buildSetMode (mode : Byte) : Built :=
  checkedSetting (decide (Config.modeMin ≤ mode.toNat) && decide (mode.toNat ≤ Config.modeMax))
    0x00 [mode]

/-- `Build(SET_BRIGHTNESS level)` (R103). -/
def buildSetBrightness (level : Byte) : Built := checkedSetting (levelInRange level) 0x01 [level]

/-- `Build(SET_SPEED speed)` (R104). -/
def buildSetSpeed (speed : Byte) : Built := checkedSetting (levelInRange speed) 0x02 [speed]

/-- `Build(SET_DIRECTION forward)` (R105). -/
def buildSetDirection (forward : Bool) : Built :=
  .ok (rawSetting 0x03 [if forward then 0x01 else 0xFF])

/-- `Build(SET_COLORFUL enabled)` (R106). -/
def buildSetColorful (enabled : Bool) : Built :=
  .ok (rawSetting 0x04 [if enabled then 0x01 else 0x00])

/-- `Build(SET_COLOR rgb)` (R107). -/
def buildSetColor (rgb : Colour) : Built := checkedSetting (colourInRange rgb) 0x05 (be24 rgb)

/-- `Build(SET_POLLING_RATE rate)` (R108). -/
def buildSetPollingRate (rate : Byte) : Built := checkedSetting (levelInRange rate) 0x0F [rate]

/-- `Build(SET_GRADIENT level)` (R109). -/
def buildSetGradient (level : Byte) : Built := checkedSetting (levelInRange level) 0x11 [level]

/-- `Build(c)` (R113); the byte-level operations build nothing. -/
def build : Instr → Option Built
  | .sendRaw p => some (buildSendRaw p)
  | .beginTx => some (.ok beginMarker)
  | .endTx => some (.ok endMarker)
  | .rawSetting id data => some (buildRawSetting id data)
  | .rawKeyRgb o cs => some (buildRawKeyRgb o cs)
  | .setMode m => some (buildSetMode m)
  | .setBrightness v => some (buildSetBrightness v)
  | .setSpeed v => some (buildSetSpeed v)
  | .setDirection f => some (buildSetDirection f)
  | .setColorful e => some (buildSetColorful e)
  | .setColor c => some (buildSetColor c)
  | .setPollingRate v => some (buildSetPollingRate v)
  | .setGradient v => some (buildSetGradient v)
  | .fePush _ => none
  | .feFin => none
  | .fePop => none

end Sys2Proof.Machine
end

