-- ==== Sys2Proof/Machine/Ops.lean ====
section
/-! DEFINITION. The operations the meanings share: the frame function (40_frame_encoder R80 to
R82), sending (42_transaction_sequencer R120, R121), the delivery of a result with its auto-close
(R122, R128, R129; 60_exceptions R150), a body command (R126), reset (70_reset R160), and the
registers of the byte-level encoder (40_frame_encoder R85 to R88). -/

namespace Sys2Proof.Machine

/-! ### The frame function -/

/-- `Checksum(P)`: the sum of the bytes, modulo 65536 (R80). -/
def checksum (p : Payload) : BitVec 16 := p.foldl (fun c b => c + b.setWidth 16) 0

/-- `encode(P)` of the spec: the 64-byte frame of a payload, or `PayloadTooLarge` (R81, R82). -/
def encodeFrame (p : Payload) : Except ResultCode Frame :=
  if p.length + Config.headerSize > Config.frameSize then .error .payloadTooLarge
  else .ok ([Config.reportType] ++ le16 (checksum p) ++ p
    ++ List.replicate (Config.maxPayload - p.length) 0)

/-! ### Sending -/

/-- How a send with these answers ends; none if the transport never answers and there is no
timeout (R120, R170). A timeout reports the silent half as failed (R5, R144). -/
def Answer.ending (timeout : Bool) (a : Answer) : Option SendEnd :=
  match a.wr with
  | .no => some .writeFailed
  | .never => if timeout then some .writeFailed else none
  | .yes =>
    match a.rd with
    | .yes => some .ok
    | .no => some .readFailed
    | .never => if timeout then some .readFailed else none

/-- How the `n`-th send ends when no answer is listed for it: free values (assumption log,
entry 3). -/
def freeEnding (n : Nat) : SendEnd :=
  if Config.freeWrOk n then (if Config.freeRdOk n then .ok else .readFailed) else .writeFailed

/-- How the next send of this state ends (R120). -/
def State.nextEnding (s : State) : Option SendEnd :=
  match s.answers with
  | [] => some (freeEnding s.draws)
  | a :: _ => a.ending s.profile.transportTimeout

/-- The state after a frame was offered to the transport: the history holds it (R33), the answer
is used up, and a failure sets `fault` (R31). The response is dropped. -/
def State.recordSend (s : State) (f : Frame) (e : SendEnd) : State :=
  { s with
    txHistory := s.txHistory ++ [⟨f, e⟩]
    answers := s.answers.tail
    draws := s.draws + 1
    fault := s.fault || e != SendEnd.ok }

/-- `TransportSend(F)` (R120); none if it never returns (R170). -/
def transportSend (f : Frame) (s : State) : Option (SendEnd × State) :=
  match s.nextEnding with
  | none => none
  | some e => some (e, s.recordSend f e)

/-- The result code of a send that ended so (R121). -/
def SendEnd.code (e : SendEnd) : ResultCode := if e = .ok then .ok else .transportFailure

/-- `SendPayload(P)` (R121): frame the payload, then send it; none if the send never returns. -/
def sendPayload (p : Payload) (s : State) : Option (ResultCode × State) :=
  match encodeFrame p with
  | .error e => some (e, s)
  | .ok f =>
    match transportSend f s with
    | none => none
    | some (e, s') => some (e.code, s')

/-! ### Delivering the result of an operation -/

/-- An operation completes with a code, which goes to `err` and out on `RES` (R32, R122, R140). -/
def State.complete (s : State) (code : ResultCode) : State :=
  { s with err := code, replies := s.replies ++ [.res code] }

/-- The transaction state is set (R124, R125, R128). -/
def State.setTs (s : State) (ts : TsState) : State := { s with ts := ts }

/-- The auto-close (R128): the end marker is sent and the state returns to Idle before error `e` is
returned; if that send fails, its failure is returned instead (R129). -/
def autoClose (e : ResultCode) (s : State) : Outcome :=
  match sendPayload endMarker s with
  | none => .fault .transportSilent
  | some (r, s') => .next ((s'.setTs .idle).complete (if r = .ok then e else r))

/-- The end of an operation other than `END` with code `r` (R122 `BodyError`, R150): an error
inside an open transaction closes it, anything else is just returned. -/
def deliver (r : ResultCode) (s : State) : Outcome :=
  if s.transactionOpen then (if r = .ok then .next (s.complete r) else autoClose r s)
  else .next (s.complete r)

/-- Every operation on `CMD` starts here: a faulted block refuses it (R131, R149 step 1). -/
def unlessFaulted (s : State) (run : Outcome) : Outcome :=
  if s.fault then .next (s.complete .sessionFaulted) else run

/-- Frame, send and deliver a payload, or deliver the error its builder raised (R122). -/
def sendBuilt (built : Built) (s : State) : Outcome :=
  match built with
  | .error e => deliver e s
  | .ok p =>
    match sendPayload p s with
    | none => .fault .transportSilent
    | some (r, s') => deliver r s'

/-- A body command (R126, R127). -/
def bodyCommand (built : Built) (s : State) : Outcome := unlessFaulted s (sendBuilt built s)

/-- A body command of the builder unit: without that unit the port does not accept it (R113,
R152). -/
def builderCommand (built : Built) (s : State) : Outcome :=
  if s.profile.hasCb then bodyCommand built s else .refused .builderAbsent

/-! ### Reset -/

/-- `RESET` (R160): every piece of state at its reset value, the histories empty, nothing sent. The
block's profile and what its environment has in store are not the block's state (assumption log,
entry 11). -/
def State.afterReset (s : State) : State :=
  { State.reset with
    profile := s.profile, answers := s.answers, draws := s.draws, offers := s.offers }

/-! ### The byte-level encoder -/

/-- `FE.PUSH b` on the registers (R85). -/
def FrameEncoder.push (fe : FrameEncoder) (b : Byte) : FrameEncoder :=
  if fe.ovf = false ∧ fe.plen.toNat < Config.maxPayload then
    { fe with
      pbuf := Memory.write fe.pbuf fe.plen.toNat b
      csum := fe.csum + b.setWidth 16
      plen := fe.plen + 1 }
  else { fe with ovf := true }

/-- `FE.FIN` on the registers (R86). -/
def FrameEncoder.finish (fe : FrameEncoder) : FrameEncoder :=
  if fe.ovf then { fe with plen := 0, csum := 0, ovf := false }
  else { fe with oidx := 0, phase := .emit }

/-- The result of `FE.FIN` (R86). -/
def FrameEncoder.finishCode (fe : FrameEncoder) : ResultCode :=
  if fe.ovf then .payloadTooLarge else .ok

/-- `FrameByte(i)` (R87): padding comes from the index comparison, so stale bytes of the buffer are
never read. -/
def FrameEncoder.frameByte (fe : FrameEncoder) (i : BitVec 6) : Byte :=
  if i.toNat = 0 then Config.reportType
  else if i.toNat = 1 then fe.csum.extractLsb' 0 8
  else if i.toNat = 2 then fe.csum.extractLsb' 8 8
  else if i.toNat < Config.headerSize + fe.plen.toNat then
    Memory.read fe.pbuf (i.toNat - Config.headerSize)
  else 0

/-- `FE.POP` on the registers (R88). -/
def FrameEncoder.pop (fe : FrameEncoder) : FrameEncoder :=
  if fe.oidx.toNat = 63 then { fe with oidx := 0, plen := 0, csum := 0, phase := .load }
  else { fe with oidx := fe.oidx + 1 }

/-- What `FE.POP` returns (R88). -/
def FrameEncoder.popReply (fe : FrameEncoder) : Reply :=
  .popped (fe.frameByte fe.oidx) (fe.oidx.toNat = 0) (fe.oidx.toNat = 63)

end Sys2Proof.Machine
end

