-- ==== Sys2Proof/Machine/Commands.lean ====
section
/-! DEFINITION. The operations of the command-builder unit (41_command_builders R100 to R109): each
builds its payload and is then a body command (42_transaction_sequencer R126). -/

namespace Sys2Proof.Machine

/-- `RAW_SETTING id, data` (R100). -/
def execRawSetting (id : Byte) (data : List Byte) (s : State) : Outcome :=
  builderCommand (buildRawSetting id data) s

/-- `RAW_KEY_RGB key_offset, colors` (R101). -/
def execRawKeyRgb (keyOffset : BitVec 16) (colors : List Colour) (s : State) : Outcome :=
  builderCommand (buildRawKeyRgb keyOffset colors) s

/-- `SET_MODE mode` (R102). -/
def execSetMode (mode : Byte) (s : State) : Outcome := builderCommand (buildSetMode mode) s

/-- `SET_BRIGHTNESS level` (R103). -/
def execSetBrightness (level : Byte) (s : State) : Outcome :=
  builderCommand (buildSetBrightness level) s

/-- `SET_SPEED speed` (R104). -/
def execSetSpeed (speed : Byte) (s : State) : Outcome := builderCommand (buildSetSpeed speed) s

/-- `SET_DIRECTION forward` (R105). -/
def execSetDirection (forward : Bool) (s : State) : Outcome :=
  builderCommand (buildSetDirection forward) s

/-- `SET_COLORFUL enabled` (R106). -/
def execSetColorful (enabled : Bool) (s : State) : Outcome :=
  builderCommand (buildSetColorful enabled) s

/-- `SET_COLOR rgb` (R107). -/
def execSetColor (rgb : Colour) (s : State) : Outcome := builderCommand (buildSetColor rgb) s

/-- `SET_POLLING_RATE rate` (R108). -/
def execSetPollingRate (rate : Byte) (s : State) : Outcome :=
  builderCommand (buildSetPollingRate rate) s

/-- `SET_GRADIENT level` (R109). -/
def execSetGradient (level : Byte) (s : State) : Outcome :=
  builderCommand (buildSetGradient level) s

end Sys2Proof.Machine
end

