-- ==== Sys2Proof/Machine/FrameEncoderOps.lean ====
section
/-! DEFINITION. The byte-level operations `FE.PUSH`, `FE.FIN`, `FE.POP` (40_frame_encoder R85 to
R89). They act on the FE registers (00_scope R7(b)), and `FE.FIN` returns a result code (60_exceptions R140;
assumption log, entry 6); offered in the wrong phase they are held (R89). -/

namespace Sys2Proof.Machine

/-- `FE.PUSH b` (R85); held in phase EMIT (R89). -/
def execFePush (b : Byte) (s : State) : Outcome :=
  match s.fe.phase with
  | .emit => .fault .inputHeld
  | .load => .next { s with fe := s.fe.push b }

/-- `FE.FIN` (R86); held in phase EMIT (R89). Its result code, `OK` or `PayloadTooLarge`, goes to
`err` and out on `RES` like every other (60_exceptions R140, R156). -/
def execFeFin (s : State) : Outcome :=
  match s.fe.phase with
  | .emit => .fault .inputHeld
  | .load => .next ({ s with fe := s.fe.finish }.complete s.fe.finishCode)

/-- `FE.POP` (R88); held in phase LOAD (R89). -/
def execFePop (s : State) : Outcome :=
  match s.fe.phase with
  | .load => .fault .outputHeld
  | .emit => .next { s with fe := s.fe.pop, replies := s.replies ++ [s.fe.popReply] }

end Sys2Proof.Machine
end

