-- ==== Sys2Proof/Machine/Transactions.lean ====
section
/-! DEFINITION. `SEND_RAW`, `BEGIN` and `END` (42_transaction_sequencer R122 to R132, R135). -/

namespace Sys2Proof.Machine

/-- `SEND_RAW P` (R123): a body command; the payload is not looked into (R69, R167). -/
def execSendRaw (p : Payload) (s : State) : Outcome := bodyCommand (buildSendRaw p) s

/-- Send the begin marker; the transaction is open if and only if the send succeeded (R124). -/
def openTransaction (s : State) : Outcome :=
  match sendPayload beginMarker s with
  | none => .fault .transportSilent
  | some (r, s') =>
    .next ((s'.setTs (if r = .ok then .inTransaction else .idle)).complete r)

/-- Send the end marker; the transaction is closed whether or not the send succeeded (R125,
R129). -/
def closeTransaction (s : State) : Outcome :=
  match sendPayload endMarker s with
  | none => .fault .transportSilent
  | some (r, s') => .next ((s'.setTs .idle).complete r)

/-- `BEGIN` (R124, R130). Without TS it is a body command (R135). -/
def execBegin (s : State) : Outcome :=
  if s.profile.hasTs then
    unlessFaulted s
      (match s.ts with
      | .inTransaction => deliver .transactionAlreadyOpen s
      | .idle => openTransaction s)
  else bodyCommand (.ok beginMarker) s

/-- `END` (R125, R132). Without TS it is a body command (R135). -/
def execEnd (s : State) : Outcome :=
  if s.profile.hasTs then
    unlessFaulted s
      (match s.ts with
      | .idle => .next (s.complete .transactionNotOpen)
      | .inTransaction => closeTransaction s)
  else bodyCommand (.ok endMarker) s

end Sys2Proof.Machine
end

