-- ==== Sys2Proof/Machine/Dispatch.lean ====
section
/-! DEFINITION. One arm per operation of the block (30_encoding R70). -/

namespace Sys2Proof.Machine

def exec (i : Instr) (s : State) : Host.Outcome State Fault Refusal :=
  match i with
  | .sendRaw p => Sys2Proof.Machine.execSendRaw p s
  | .beginTx => Sys2Proof.Machine.execBegin s
  | .endTx => Sys2Proof.Machine.execEnd s
  | .rawSetting id data => Sys2Proof.Machine.execRawSetting id data s
  | .rawKeyRgb keyOffset colors => Sys2Proof.Machine.execRawKeyRgb keyOffset colors s
  | .setMode mode => Sys2Proof.Machine.execSetMode mode s
  | .setBrightness level => Sys2Proof.Machine.execSetBrightness level s
  | .setSpeed speed => Sys2Proof.Machine.execSetSpeed speed s
  | .setDirection forward => Sys2Proof.Machine.execSetDirection forward s
  | .setColorful enabled => Sys2Proof.Machine.execSetColorful enabled s
  | .setColor rgb => Sys2Proof.Machine.execSetColor rgb s
  | .setPollingRate rate => Sys2Proof.Machine.execSetPollingRate rate s
  | .setGradient level => Sys2Proof.Machine.execSetGradient level s
  | .fePush b => Sys2Proof.Machine.execFePush b s
  | .feFin => Sys2Proof.Machine.execFeFin s
  | .fePop => Sys2Proof.Machine.execFePop s

end Sys2Proof.Machine
end

