-- ==== Sys2Proof/Machine/Fetch.lean ====
section
/-! DEFINITION. Which offer the block takes next, and what taking it does. Each port takes its offers
in order; an operation offered in the wrong phase is held and stays offered while another port's
offer is taken (40_frame_encoder R89, 20_memory R49; assumption log, entry 2). While a silent
transport keeps an operation from completing, the other ports go on (70_reset R170; entry 4). -/

namespace Sys2Proof.Machine

/-- The operation is held in this phase (R89). -/
def heldIn (phase : Phase) : Instr → Bool
  | .fePush _ => phase == .emit
  | .feFin => phase == .emit
  | .fePop => phase == .load
  | .sendRaw _ => false
  | .beginTx => false
  | .endTx => false
  | .rawSetting _ _ => false
  | .rawKeyRgb _ _ => false
  | .setMode _ => false
  | .setBrightness _ => false
  | .setSpeed _ => false
  | .setDirection _ => false
  | .setColorful _ => false
  | .setColor _ => false
  | .setPollingRate _ => false
  | .setGradient _ => false

/-- The offer is held in this phase; a reset, a status read, and a code that is no operation are
not. -/
def Offer.heldIn (phase : Phase) : Offer → Bool
  | .op i => Machine.heldIn phase i
  | .unassigned _ => false
  | .stat _ => false
  | .rst => false

/-- The oldest offer that is ready, and the others in their order. -/
def takeFirst (ready : Offer → Bool) : List Offer → Option (Offer × List Offer)
  | [] => none
  | o :: os =>
    if ready o then some (o, os)
    else
      match takeFirst ready os with
      | none => none
      | some (o', os') => some (o', o :: os')

/-- The offer the block turns to: the oldest that is not held, or, when all are held, the oldest
(whose meaning then says that it is stuck); none when nothing is offered. -/
def nextOffer (phase : Phase) (offers : List Offer) : Option (Offer × List Offer) :=
  match takeFirst (fun o => !o.heldIn phase) offers with
  | some x => some x
  | none =>
    match offers with
    | [] => none
    | o :: os => some (o, os)

/-- A status read answers on its port and has no other effect (10_state R34). -/
def answerStat (number : Byte) (s : State) : State :=
  { s with replies := s.replies ++ [.stat number (s.readStat number)] }

/-- What the block does with an offer it turns to. -/
def carryOut (o : Offer) (s : State) : Outcome :=
  match o with
  | .rst => .next s.afterReset
  | .stat number => .next (answerStat number s)
  | .op i => exec i s
  | .unassigned code => .refused (.unassignedCode code)

/-! ### A transport that never answers -/

/-- The offer can be taken while an operation on `CMD` never completes: a reset, a status read, or
a byte-level operation that is not held. `CMD` itself is not ready (R170). -/
def Offer.besideHang (phase : Phase) : Offer → Bool
  | .op i => (build i).isNone && !Machine.heldIn phase i
  | .unassigned _ => false
  | .stat _ => true
  | .rst => true

/-- How many answers the operation that hangs has drawn: those up to the one that never comes. -/
def drawnByHang : List Answer → Nat
  | [] => 0
  | a :: as => if (a.ending false).isNone then 1 else drawnByHang as + 1

/-- Offer `hung` is an operation that never completes, and only reset ends it (R170): other ports'
offers are taken, the operation staying offered, and a reset drops it with the answers it drew.
With no such offer the machine is stuck. -/
def besideHang (hung : Offer) (s : State) : Outcome :=
  match takeFirst (·.besideHang s.fe.phase) s.offers with
  | none => .fault .transportSilent
  | some (.rst, rest) =>
    .next ({ s with
      offers := rest
      answers := s.answers.drop (drawnByHang s.answers)
      draws := s.draws + drawnByHang s.answers }).afterReset
  | some (o, rest) => carryOut o { s with offers := hung :: rest }

/-- Offer `o` is turned to, the others being `s.offers`. -/
def takeOffer (o : Offer) (s : State) : Outcome :=
  match carryOut o s with
  | .fault .transportSilent => besideHang o s
  | out => out

/-! ### The wires -/

/-- The host puts bytes on the wires of a block with serialisation `ser` (00_scope R5, R8): the
operation they stand for joins the offers, and bytes that stand for none are not accepted
(60_exceptions R152). -/
def State.offerWires (s : State) (ser : Config.CmdSerialisation) (wires : List Byte) : State :=
  match ser.read wires with
  | some i => { s with offers := s.offers ++ [.op i] }
  | none => s

end Sys2Proof.Machine
end

