-- ==== Sys2Proof/Machine/Step.lean ====
section
/-! DEFINITION. One step of the machine: it turns to the next offer of its host and carries it out
to completion (00_scope R6, 20_memory R49). -/

namespace Sys2Proof.Machine

/-- One step. With nothing offered the block waits (assumption log, entry 13). -/
def step (s : State) : Host.Outcome State Fault Refusal :=
  match nextOffer s.fe.phase s.offers with
  | none => .next s
  | some (o, rest) => takeOffer o { s with offers := rest }

/-- What the host offers for a table word: the operation it stands for; for a code R70 does not
assign, that code; for other words that stand for none, nothing (assumption log, entry 14). -/
def offersOfWord (nbits w : Nat) : List Offer :=
  match decodeTableWord nbits w with
  | some i => [.op i]
  | none => if nbits = 8 then [.unassigned (BitVec.ofNat 8 w)] else []

/-- `s` with the operation of a table word offered before everything else (entry 14). -/
def State.withFetchWord (s : State) (nbits w : Nat) : State :=
  { s with offers := offersOfWord nbits w ++ s.offers }

end Sys2Proof.Machine
end

