-- ==== Sys2Proof/Safety.lean ====
section
/-! DEFINITION. The words claims about the block are stated in: what a frame must be, what an
operation leaves behind, what a run of operations is, and which states are sound. Where the model
has a function for the same thing, the one here is written afresh from the spec. -/

namespace Sys2Proof.Safety

open Sys2Proof Sys2Proof.Machine

/-! ### Frames -/

/-- The exact sum of a payload's bytes (40_frame_encoder R80, before the `mod`). -/
def byteSum (p : Payload) : Nat := (p.map BitVec.toNat).sum

/-- The frame of a payload of at most 61 bytes (30_encoding R60). -/
def frameOf (p : Payload) : Frame :=
  [0x04, BitVec.ofNat 8 (byteSum p), BitVec.ofNat 8 (byteSum p / 256)] ++ p
    ++ List.replicate (61 - p.length) 0

/-- A well-formed frame, by the reduced test of 30_encoding R75: 64 bytes, the report type, and the
checksum of everything after it. -/
def wellFormedFrame (f : Frame) : Bool :=
  match f with
  | rtype :: lo :: hi :: body =>
    decide (body.length = 61) && decide (rtype = 0x04)
      && decide (lo.toNat + 256 * hi.toNat = byteSum body)
  | _ => false

/-! ### Outcomes -/

/-- The next state, if there is one. -/
def nextState? {φ ρ : Type} : Host.Outcome State φ ρ → Option State
  | .next s => some s
  | .fault _ => none
  | .refused _ => none

/-- The outcome with its next state changed by `f`. -/
def mapNext {φ ρ : Type} (f : State → State) : Host.Outcome State φ ρ → Host.Outcome State φ ρ
  | .next s => .next (f s)
  | .fault r => .fault r
  | .refused r => .refused r

/-- `s` after an operation that offered the frames `sent` to the transport and ended with `code`,
the transaction state and the fault bit being as said; nothing else differs (60_exceptions R150). -/
def outcomeOf (s : State) (sent : List Sent) (ts : TsState) (fault : Bool) (code : ResultCode) :
    State :=
  { s with
    ts := ts
    fault := fault
    err := code
    txHistory := s.txHistory ++ sent
    answers := s.answers.drop sent.length
    draws := s.draws + sent.length
    replies := s.replies ++ [.res code] }

/-- How the `k`-th send from `s` on ends (the next one is number 0). -/
def endingAt (s : State) (k : Nat) : Option SendEnd :=
  match s.answers.drop k with
  | [] => some (freeEnding (s.draws + k))
  | a :: _ => a.ending s.profile.transportTimeout

/-- Every listed answer comes, or there is a timeout: no send hangs (70_reset R170). -/
def transportAnswers (s : State) : Bool :=
  s.profile.transportTimeout || s.answers.all (fun a => a.wr != .never && a.rd != .never)

/-! ### Kinds of operations -/

/-- An operation of the builder unit (00_scope R5, 60_exceptions R152). -/
def isBuilder : Instr → Bool
  | .sendRaw _ => false
  | .beginTx => false
  | .endTx => false
  | .rawSetting _ _ => true
  | .rawKeyRgb _ _ => true
  | .setMode _ => true
  | .setBrightness _ => true
  | .setSpeed _ => true
  | .setDirection _ => true
  | .setColorful _ => true
  | .setColor _ => true
  | .setPollingRate _ => true
  | .setGradient _ => true
  | .fePush _ => false
  | .feFin => false
  | .fePop => false

/-- An operation of the operation level: one of port `CMD` (00_scope R7(a), R11). -/
def isCmd (i : Instr) : Bool := (build i).isSome

/-- A body command: any `CMD` operation but `BEGIN` and `END` (42_transaction_sequencer R126). -/
def isBody (i : Instr) : Bool := isBuilder i || (match i with | .sendRaw _ => true | _ => false)

/-- The block's port takes this operation: the unit it belongs to is present (R152). -/
def accepted (i : Instr) (s : State) : Bool := s.profile.hasCb || !isBuilder i

/-- The operation builds this payload, and it fits a frame (41_command_builders R113). -/
def sends (i : Instr) (p : Payload) : Prop := build i = some (.ok p) ∧ p.length ≤ 61

/-- The operation raises this error before anything is sent: its builder raises it (R113), or its
payload is too long for a frame (40_frame_encoder R82). -/
def raises (i : Instr) (e : ResultCode) : Prop :=
  build i = some (.error e) ∨
    ∃ p, build i = some (.ok p) ∧ 61 < p.length ∧ e = .payloadTooLarge

/-! ### Runs -/

/-- Operations carried out one after another, stopping at the first that has no next state. -/
def runAll : List Instr → State → Outcome
  | [], s => .next s
  | i :: is, s =>
    match exec i s with
    | .next s' => runAll is s'
    | .fault r => .fault r
    | .refused r => .refused r

/-- The sixty-four replies of the `FE.POP`s of one frame: its bytes in order, with `first` on the
first and `last` on the sixty-fourth (40_frame_encoder R88, R90). -/
def popReplies (f : Frame) : List Reply :=
  f.zipIdx.map fun x => .popped x.1 (decide (x.2 = 0)) (decide (x.2 = 63))

/-! ### Sound states -/

/-- FE empty (10_state R29). -/
def feEmpty (fe : FrameEncoder) : Bool :=
  fe.phase == .load && fe.plen == 0 && fe.csum == 0 && !fe.ovf && fe.oidx == 0

/-- The payload bytes accepted so far: `pbuf[0 .. plen-1]` (10_state R25). -/
def loaded (fe : FrameEncoder) : Payload :=
  (List.range fe.plen.toNat).map (Memory.read fe.pbuf)

/-- The registers of the byte-level encoder agree with each other (10_state R23 to R28). -/
structure FrameEncoderSound (fe : FrameEncoder) : Prop where
  /-- The buffer is in canonical form, inside PBUF. -/
  pbufCanonical : Memory.wf fe.pbuf = true
  /-- `FE.plen` never exceeds 61 (R24). -/
  plenBound : fe.plen.toNat ≤ 61
  /-- `FE.csum` is the checksum of the accepted bytes (R25). -/
  csumCurrent : fe.csum.toNat = byteSum (loaded fe)
  /-- `FE.ovf` is set only with a full buffer, and never in EMIT (R26). -/
  ovfFull : fe.ovf = true → fe.phase = .load ∧ fe.plen.toNat = 61
  /-- `FE.oidx` is 0 outside EMIT (R28). -/
  oidxRest : fe.phase = .load → fe.oidx = 0

/-- The code of the last `RES` reply, `OK` if there is none (10_state R32). -/
def lastResult (rs : List Reply) : ResultCode :=
  rs.foldl (fun c r => match r with | .res c' => c' | _ => c) .ok

/-- The operation-level state agrees with itself and with what was sent (10_state R30 to R33). -/
structure SessionSound (s : State) : Prop where
  /-- InTransaction together with `fault` is unreachable (42_transaction_sequencer R136). -/
  faultClosed : s.fault = true → s.ts = .idle
  /-- Without the sequencer no transaction is open (10_state R30). -/
  sequencerAbsent : s.profile.hasTs = false → s.ts = .idle
  /-- `fault` is set exactly when a send has failed since reset (10_state R31). -/
  faultSticky : s.fault = s.txHistory.any (fun x => x.result != SendEnd.ok)
  /-- `err` is the last code returned on `RES` (10_state R32). -/
  errCurrent : s.err = lastResult s.replies
  /-- Every frame offered to the transport is well formed (42_transaction_sequencer R120). -/
  framesWellFormed : ∀ x ∈ s.txHistory, wellFormedFrame x.frame = true

/-- A state that runs can reach, as far as the rules of the spec say. -/
structure Sound (s : State) : Prop where
  /-- The byte level. -/
  frameEncoder : FrameEncoderSound s.fe
  /-- The operation level. -/
  session : SessionSound s

/-! ### Observation -/

/-- A serialisation carries every operation a port can carry (00_scope R5, R8). -/
def Lawful (ser : Config.CmdSerialisation) : Prop :=
  ∀ i : Instr, WellFormed i → ser.read (ser.write i) = some i

/-- `s` with the response bytes of every listed answer blanked out. -/
def blindToResponses (s : State) : State :=
  { s with answers := s.answers.map fun a => { a with resp := Vector.replicate 64 0 } }

end Sys2Proof.Safety
end

