-- ==== Sys2Proof/Laws/State.lean ====
section
/-! SUPPORT. What each update of the state leaves in each field. -/

namespace Sys2Proof.Machine

variable (s : State)

/-! `State.complete` writes `err` and `replies`. -/

@[simp] theorem State.complete_fe (c : ResultCode) : (s.complete c).fe = s.fe := rfl
@[simp] theorem State.complete_ts (c : ResultCode) : (s.complete c).ts = s.ts := rfl
@[simp] theorem State.complete_fault (c : ResultCode) : (s.complete c).fault = s.fault := rfl
@[simp] theorem State.complete_err (c : ResultCode) : (s.complete c).err = c := rfl
@[simp] theorem State.complete_profile (c : ResultCode) : (s.complete c).profile = s.profile := rfl
@[simp] theorem State.complete_answers (c : ResultCode) : (s.complete c).answers = s.answers := rfl
@[simp] theorem State.complete_draws (c : ResultCode) : (s.complete c).draws = s.draws := rfl
@[simp] theorem State.complete_offers (c : ResultCode) : (s.complete c).offers = s.offers := rfl
@[simp] theorem State.complete_txHistory (c : ResultCode) :
    (s.complete c).txHistory = s.txHistory := rfl
@[simp] theorem State.complete_replies (c : ResultCode) :
    (s.complete c).replies = s.replies ++ [.res c] := rfl

/-! `State.setTs` writes `ts`. -/

@[simp] theorem State.setTs_fe (x : TsState) : (s.setTs x).fe = s.fe := rfl
@[simp] theorem State.setTs_ts (x : TsState) : (s.setTs x).ts = x := rfl
@[simp] theorem State.setTs_fault (x : TsState) : (s.setTs x).fault = s.fault := rfl
@[simp] theorem State.setTs_err (x : TsState) : (s.setTs x).err = s.err := rfl
@[simp] theorem State.setTs_profile (x : TsState) : (s.setTs x).profile = s.profile := rfl
@[simp] theorem State.setTs_answers (x : TsState) : (s.setTs x).answers = s.answers := rfl
@[simp] theorem State.setTs_draws (x : TsState) : (s.setTs x).draws = s.draws := rfl
@[simp] theorem State.setTs_offers (x : TsState) : (s.setTs x).offers = s.offers := rfl
@[simp] theorem State.setTs_txHistory (x : TsState) : (s.setTs x).txHistory = s.txHistory := rfl
@[simp] theorem State.setTs_replies (x : TsState) : (s.setTs x).replies = s.replies := rfl

/-! `State.recordSend` writes `txHistory`, `answers`, `draws` and `fault`. -/

variable (f : Frame) (e : SendEnd)

@[simp] theorem State.recordSend_fe : (s.recordSend f e).fe = s.fe := rfl
@[simp] theorem State.recordSend_ts : (s.recordSend f e).ts = s.ts := rfl
@[simp] theorem State.recordSend_fault :
    (s.recordSend f e).fault = (s.fault || e != SendEnd.ok) := rfl
@[simp] theorem State.recordSend_err : (s.recordSend f e).err = s.err := rfl
@[simp] theorem State.recordSend_profile : (s.recordSend f e).profile = s.profile := rfl
@[simp] theorem State.recordSend_answers : (s.recordSend f e).answers = s.answers.tail := rfl
@[simp] theorem State.recordSend_draws : (s.recordSend f e).draws = s.draws + 1 := rfl
@[simp] theorem State.recordSend_offers : (s.recordSend f e).offers = s.offers := rfl
@[simp] theorem State.recordSend_txHistory :
    (s.recordSend f e).txHistory = s.txHistory ++ [⟨f, e⟩] := rfl
@[simp] theorem State.recordSend_replies : (s.recordSend f e).replies = s.replies := rfl
@[simp] theorem State.recordSend_transactionOpen :
    (s.recordSend f e).transactionOpen = s.transactionOpen := rfl

/-! `State.afterReset` keeps the profile and the environment's fields. -/

@[simp] theorem State.afterReset_fe : s.afterReset.fe = FrameEncoder.reset := rfl
@[simp] theorem State.afterReset_ts : s.afterReset.ts = .idle := rfl
@[simp] theorem State.afterReset_fault : s.afterReset.fault = false := rfl
@[simp] theorem State.afterReset_err : s.afterReset.err = .ok := rfl
@[simp] theorem State.afterReset_profile : s.afterReset.profile = s.profile := rfl
@[simp] theorem State.afterReset_answers : s.afterReset.answers = s.answers := rfl
@[simp] theorem State.afterReset_draws : s.afterReset.draws = s.draws := rfl
@[simp] theorem State.afterReset_offers : s.afterReset.offers = s.offers := rfl
@[simp] theorem State.afterReset_txHistory : s.afterReset.txHistory = [] := rfl
@[simp] theorem State.afterReset_replies : s.afterReset.replies = [] := rfl

/-! A status read writes `replies`. -/

@[simp] theorem answerStat_fe (n : Byte) : (answerStat n s).fe = s.fe := rfl
@[simp] theorem answerStat_ts (n : Byte) : (answerStat n s).ts = s.ts := rfl
@[simp] theorem answerStat_fault (n : Byte) : (answerStat n s).fault = s.fault := rfl
@[simp] theorem answerStat_err (n : Byte) : (answerStat n s).err = s.err := rfl
@[simp] theorem answerStat_profile (n : Byte) : (answerStat n s).profile = s.profile := rfl
@[simp] theorem answerStat_answers (n : Byte) : (answerStat n s).answers = s.answers := rfl
@[simp] theorem answerStat_draws (n : Byte) : (answerStat n s).draws = s.draws := rfl
@[simp] theorem answerStat_offers (n : Byte) : (answerStat n s).offers = s.offers := rfl
@[simp] theorem answerStat_replies (n : Byte) :
    (answerStat n s).replies = s.replies ++ [.stat n (s.readStat n)] := rfl
@[simp] theorem answerStat_txHistory (n : Byte) : (answerStat n s).txHistory = s.txHistory := rfl

end Sys2Proof.Machine
end

