-- ==== Sys2Proof/Laws/Memory.lean ====
section
/-! SUPPORT. The laws of PBUF: a write is read back, leaves every other address alone, and keeps
the canonical form. -/

namespace Sys2Proof.Machine

theorem wfFrom_mono {lo lo' : Nat} (h : lo ≤ lo') :
    ∀ m : Memory, Memory.wfFrom lo' m = true → Memory.wfFrom lo m = true
  | [], _ => rfl
  | (a, v) :: m, hm => by
    simp only [Memory.wfFrom, Bool.and_eq_true, decide_eq_true_eq] at hm ⊢
    exact ⟨⟨⟨h.trans hm.1.1.1, hm.1.1.2⟩, hm.1.2⟩, hm.2⟩

/-- Below its first possible address a canonical memory reads as unlisted. -/
theorem read_of_lt {lo a : Nat} (h : a < lo) :
    ∀ m : Memory, Memory.wfFrom lo m = true → Memory.read m a = unlistedByte
  | [], _ => rfl
  | (b, v) :: m, hm => by
    simp only [Memory.wfFrom, Bool.and_eq_true, decide_eq_true_eq] at hm
    have : a ≠ b := by omega
    have : a < b := by omega
    simp [Memory.read, *]

theorem read_cons {a : Nat} {v : Byte} {m : Memory} (hm : Memory.wfFrom (a + 1) m = true) (b : Nat)
    (hb : a ≤ b) : Memory.read (Memory.cons a v m) b = if b = a then v else Memory.read m b := by
  unfold Memory.cons
  by_cases hv : v = unlistedByte <;> by_cases hba : b = a
  · subst hba; simp [hv, read_of_lt (Nat.lt_succ_self b) m hm]
  · simp [hv, hba]
  · simp [hv, hba, Memory.read]
  · have : ¬ b < a := by omega
    simp [hv, hba, this, Memory.read]

theorem read_cons_below {a : Nat} {v : Byte} {m : Memory} (hm : Memory.wfFrom (a + 1) m = true)
    {b : Nat} (hb : b < a) : Memory.read (Memory.cons a v m) b = unlistedByte := by
  unfold Memory.cons
  split_ifs with hv
  · exact read_of_lt (by omega : b < a + 1) m hm
  · simp [Memory.read, hb, hb.ne]

/-- Read after write. -/
theorem read_write {lo : Nat} {a : Nat} {v : Byte} (b : Nat) :
    ∀ m : Memory, Memory.wfFrom lo m = true → lo ≤ a →
      Memory.read (Memory.write m a v) b = if b = a then v else Memory.read m b
  | [], _, _ => by
    by_cases hb : b = a <;> by_cases hv : v = unlistedByte <;>
      simp [Memory.write, Memory.cons, Memory.read, hb, hv]
  | (c, w) :: m, hm, h => by
    simp only [Memory.wfFrom, Bool.and_eq_true, decide_eq_true_eq] at hm
    rcases lt_trichotomy a c with h₁ | h₁ | h₁
    · have hwf : Memory.wfFrom (a + 1) ((c, w) :: m) = true := by
        simp only [Memory.wfFrom, Bool.and_eq_true, decide_eq_true_eq]
        exact ⟨⟨⟨by omega, hm.1.1.2⟩, hm.1.2⟩, hm.2⟩
      simp only [Memory.write, h₁.ne, h₁, if_true, if_false]
      rcases lt_or_ge b a with hb | hb
      · rw [if_neg hb.ne, read_of_lt (by omega : b < a + 1) _ hwf]
        exact read_cons_below hwf hb
      · exact read_cons hwf b hb
    · subst h₁
      simp only [Memory.write, if_true]
      rcases lt_or_ge b a with hb | hb
      · rw [read_cons_below hm.2 hb]
        simp [Memory.read, hb, hb.ne]
      · rw [read_cons hm.2 b hb]
        by_cases hba : b = a
        · simp [hba]
        · simp [hba, Memory.read, Nat.not_lt.mpr hb]
    · have hac : ¬ a < c := by omega
      have ih := read_write (v := v) b m hm.2 (by omega : c + 1 ≤ a)
      simp only [Memory.write, h₁.ne', hac, if_false, Memory.read, ih]
      rcases lt_trichotomy b c with hbc | hbc | hbc
      · have : b ≠ a := by omega
        simp [hbc, hbc.ne, this]
      · have : c ≠ a := by omega
        simp [hbc, this]
      · have : ¬ b < c := by omega
        simp [hbc.ne', this]

theorem wfFrom_cons {lo a : Nat} {v : Byte} {m : Memory} (hm : Memory.wfFrom (a + 1) m = true)
    (h : lo ≤ a) (ha : a < pbufSize) : Memory.wfFrom lo (Memory.cons a v m) = true := by
  unfold Memory.cons
  split_ifs with hv
  · exact wfFrom_mono (by omega) m hm
  · simp [Memory.wfFrom, h, ha, hv, hm]

/-- A write inside PBUF keeps the canonical form. -/
theorem wfFrom_write {a : Nat} {v : Byte} (ha : a < pbufSize) {lo : Nat} :
    ∀ m : Memory, Memory.wfFrom lo m = true → lo ≤ a → Memory.wfFrom lo (Memory.write m a v) = true
  | [], _, h => wfFrom_cons rfl h ha
  | (c, w) :: m, hm, h => by
    have hm' := hm
    simp only [Memory.wfFrom, Bool.and_eq_true, decide_eq_true_eq] at hm'
    unfold Memory.write
    split_ifs with h₁ h₂
    · subst h₁; exact wfFrom_cons hm'.2 h ha
    · refine wfFrom_cons ?_ h ha
      simp only [Memory.wfFrom, Bool.and_eq_true, decide_eq_true_eq]
      exact ⟨⟨⟨by omega, hm'.1.1.2⟩, hm'.1.2⟩, hm'.2⟩
    · simp only [Memory.wfFrom, Bool.and_eq_true, decide_eq_true_eq]
      exact ⟨⟨⟨hm'.1.1.1, hm'.1.1.2⟩, hm'.1.2⟩,
        wfFrom_write ha m hm'.2 (by omega : c + 1 ≤ a)⟩

/-- Every memory operation keeps the canonical form: the write, inside PBUF. -/
theorem wf_write {m : Memory} {a : Nat} {v : Byte} (hm : Memory.wf m = true) (ha : a < pbufSize) :
    Memory.wf (Memory.write m a v) = true :=
  wfFrom_write ha m hm (Nat.zero_le a)

/-- The memory is canonical at reset. -/
theorem wf_reset : Memory.wf State.reset.fe.pbuf = true := rfl

/-- A write to a canonical memory changes the byte written and no other. -/
theorem read_write_wf {m : Memory} {a : Nat} {v : Byte} (hm : Memory.wf m = true) (b : Nat) :
    Memory.read (Memory.write m a v) b = if b = a then v else Memory.read m b :=
  read_write b m hm (Nat.zero_le a)

end Sys2Proof.Machine
end

