-- ==== Sys2Proof/Laws/FrameEncoder.lean ====
section
/-! SUPPORT. What the byte-level operations do to the encoder's registers, case by case. -/

namespace Sys2Proof.Machine

variable (fe : FrameEncoder)

/-- With room, a push stores, sums and counts (R85). -/
theorem push_of_room (b : Byte) (ho : fe.ovf = false) (hp : fe.plen.toNat < 61) :
    fe.push b = { fe with
      pbuf := Memory.write fe.pbuf fe.plen.toNat b
      csum := fe.csum + b.setWidth 16
      plen := fe.plen + 1 } := by
  simp [FrameEncoder.push, ho, hp]

/-- Without room, a push only sets the oversize flag (R85). -/
theorem push_of_no_room (b : Byte) (h : fe.ovf = true ∨ 61 ≤ fe.plen.toNat) :
    fe.push b = { fe with ovf := true } := by
  have : ¬ (fe.ovf = false ∧ fe.plen.toNat < 61) := by
    rintro ⟨ho, hp⟩
    rcases h with h | h
    · simp [ho] at h
    · omega
  simp [FrameEncoder.push, this]

/-- A push changes neither the phase nor the emission index. -/
@[simp] theorem push_phase (b : Byte) : (fe.push b).phase = fe.phase := by
  unfold FrameEncoder.push; split_ifs <;> rfl
@[simp] theorem push_oidx (b : Byte) : (fe.push b).oidx = fe.oidx := by
  unfold FrameEncoder.push; split_ifs <;> rfl

/-- With the oversize flag set, the end of the payload empties the encoder (R86). -/
theorem finish_of_ovf (h : fe.ovf = true) :
    fe.finish = { fe with plen := 0, csum := 0, ovf := false } := by
  simp [FrameEncoder.finish, h]

/-- Otherwise it starts the emission (R86). -/
theorem finish_of_fit (h : fe.ovf = false) : fe.finish = { fe with oidx := 0, phase := .emit } := by
  simp [FrameEncoder.finish, h]

/-- The last pop empties the encoder (R88). -/
theorem pop_of_last (h : fe.oidx.toNat = 63) :
    fe.pop = { fe with oidx := 0, plen := 0, csum := 0, phase := .load } := by
  simp [FrameEncoder.pop, h]

/-- Any other pop moves the index on (R88). -/
theorem pop_of_more (h : fe.oidx.toNat ≠ 63) : fe.pop = { fe with oidx := fe.oidx + 1 } := by
  simp [FrameEncoder.pop, h]

end Sys2Proof.Machine
end

