-- ==== Sys2Proof/Laws/Ops.lean ====
section
/-! SUPPORT. What each shared operation can do, said once: what it answers when, and, where a claim
starts from an answer, what the answer must have been. -/

namespace Sys2Proof.Machine

/-! ### The frame function -/

theorem encodeFrame_of_le {p : Payload} (h : p.length ≤ 61) :
    encodeFrame p = .ok ([Config.reportType] ++ le16 (checksum p) ++ p
      ++ List.replicate (61 - p.length) 0) := by
  have : ¬ p.length + 3 > 64 := by omega
  simp [encodeFrame, Config.headerSize, Config.frameSize, Config.maxPayload, this]

theorem encodeFrame_of_gt {p : Payload} (h : 61 < p.length) :
    encodeFrame p = .error .payloadTooLarge := by
  have : p.length + 3 > 64 := by omega
  simp [encodeFrame, Config.headerSize, Config.frameSize, this]

/-- The checksum takes its bytes one by one (R85 accumulates it so). -/
theorem checksum_concat (p : Payload) (b : Byte) :
    checksum (p ++ [b]) = checksum p + b.setWidth 16 := by
  simp [checksum]

/-! ### Sending -/

theorem transportSend_of_ending {s : State} {e : SendEnd} (f : Frame) (h : s.nextEnding = some e) :
    transportSend f s = some (e, s.recordSend f e) := by
  simp [transportSend, h]

theorem transportSend_of_silent {s : State} (f : Frame) (h : s.nextEnding = none) :
    transportSend f s = none := by
  simp [transportSend, h]

theorem sendPayload_of_gt {p : Payload} (s : State) (h : 61 < p.length) :
    sendPayload p s = some (.payloadTooLarge, s) := by
  simp [sendPayload, encodeFrame_of_gt h]

theorem sendPayload_of_ending {p : Payload} {s : State} {e : SendEnd} {f : Frame}
    (hf : encodeFrame p = .ok f) (h : s.nextEnding = some e) :
    sendPayload p s = some (e.code, s.recordSend f e) := by
  simp [sendPayload, hf, transportSend_of_ending f h]

theorem sendPayload_of_silent {p : Payload} {s : State} {f : Frame}
    (hf : encodeFrame p = .ok f) (h : s.nextEnding = none) : sendPayload p s = none := by
  simp [sendPayload, hf, transportSend_of_silent f h]

/-- Everything `SendPayload` can answer: the payload was too long and nothing happened, or its
frame was sent with some ending. -/
theorem sendPayload_some {p : Payload} {s s' : State} {r : ResultCode}
    (h : sendPayload p s = some (r, s')) :
    (encodeFrame p = .error r ∧ s' = s) ∨
    ∃ f e, encodeFrame p = .ok f ∧ s.nextEnding = some e ∧ r = e.code ∧ s' = s.recordSend f e := by
  unfold sendPayload at h
  split at h
  next e he => left; cases h; exact ⟨he, rfl⟩
  next f hf =>
    right
    unfold transportSend at h
    split at h
    next => cases h
    next e s'' hs =>
      split at hs
      next => cases hs
      next e' he' => cases hs; cases h; exact ⟨f, e, hf, he', rfl, rfl⟩

/-! ### Delivery -/

/-- Everything the auto-close can answer with a next state: the end marker was offered, the state
is Idle, and the code is the error's, unless that send failed (R128, R129). -/
theorem autoClose_next {e : ResultCode} {s t : State} (h : autoClose e s = .next t) :
    ∃ f x, encodeFrame endMarker = .ok f ∧ s.nextEnding = some x ∧
      t = ((s.recordSend f x).setTs .idle).complete
        (if x = SendEnd.ok then e else .transportFailure) := by
  unfold autoClose at h
  split at h
  next => cases h
  next r s' hs =>
    rcases sendPayload_some hs with ⟨he, -⟩ | ⟨f, x, hf, hx, rfl, rfl⟩
    · rw [encodeFrame_of_le (by decide)] at he; cases he
    · cases h
      refine ⟨f, x, hf, hx, ?_⟩
      cases x <;> simp [SendEnd.code]

/-- Everything a delivery can answer with a next state: the code is returned, or, for an error
inside an open transaction, the auto-close runs (R122, R150). -/
theorem deliver_next {r : ResultCode} {s t : State} (h : deliver r s = .next t) :
    (t = s.complete r ∧ (s.transactionOpen = true → r = .ok)) ∨
    (s.transactionOpen = true ∧ r ≠ .ok ∧ autoClose r s = .next t) := by
  unfold deliver at h
  split_ifs at h with h₁ h₂
  · left; cases h; exact ⟨rfl, fun _ => h₂⟩
  · right; exact ⟨h₁, h₂, h⟩
  · left; cases h; exact ⟨rfl, fun h' => absurd h' h₁⟩

/-- A delivery outside a transaction only returns the code. -/
theorem deliver_closed {r : ResultCode} {s : State} (h : s.transactionOpen = false) :
    deliver r s = .next (s.complete r) := by
  simp [deliver, h]

/-- Everything a framed and sent payload can answer with a next state (R122). -/
theorem sendBuilt_next {b : Built} {s t : State} (h : sendBuilt b s = .next t) :
    (∃ e, b = .error e ∧ deliver e s = .next t) ∨
    ∃ p r s', b = .ok p ∧ sendPayload p s = some (r, s') ∧ deliver r s' = .next t := by
  unfold sendBuilt at h
  split at h
  next e => exact .inl ⟨e, rfl, h⟩
  next p =>
    split at h
    next => cases h
    next r s' hs => exact .inr ⟨p, r, s', rfl, hs, h⟩

/-- A faulted block refuses; any other carries the operation out (R131). -/
theorem unlessFaulted_next {s t : State} {run : Outcome} (h : unlessFaulted s run = .next t) :
    (s.fault = true ∧ t = s.complete .sessionFaulted) ∨ (s.fault = false ∧ run = .next t) := by
  unfold unlessFaulted at h
  split_ifs at h with hf
  · left; cases h; exact ⟨hf, rfl⟩
  · right; exact ⟨by simpa using hf, h⟩

/-- A builder operation with a next state means that the builders are present (R152). -/
theorem builderCommand_next {b : Built} {s t : State} (h : builderCommand b s = .next t) :
    s.profile.hasCb = true ∧ bodyCommand b s = .next t := by
  unfold builderCommand at h
  split_ifs at h with hc
  exact ⟨hc, h⟩

/-! ### Taking offers -/

/-- The offer found is ready, and it and the others are what was offered. -/
theorem takeFirst_some {ready : Offer → Bool} :
    ∀ {os : List Offer} {o : Offer} {rest : List Offer}, takeFirst ready os = some (o, rest) →
      ready o = true ∧ (o :: rest).Perm os
  | [], _, _, h => by cases h
  | o' :: os, o, rest, h => by
    unfold takeFirst at h
    split_ifs at h with hh
    · cases h; exact ⟨hh, .refl _⟩
    · split at h
      next => cases h
      next o'' os'' hr =>
        cases h
        have ih := takeFirst_some hr
        exact ⟨ih.1, (List.Perm.swap ..).trans (ih.2.cons o')⟩

/-- An offer at the head that is not held is taken next. -/
theorem nextOffer_head {ph : Phase} {o : Offer} (os : List Offer) (h : o.heldIn ph = false) :
    nextOffer ph (o :: os) = some (o, os) := by
  simp [nextOffer, takeFirst, h]

/-- An offer alone is turned to, held or not. -/
theorem nextOffer_single (ph : Phase) (o : Offer) : nextOffer ph [o] = some (o, []) := by
  by_cases h : o.heldIn ph <;> simp [nextOffer, takeFirst, h]

/-- An offer that does not hang is simply carried out. -/
theorem takeOffer_of_ne {o : Offer} {s : State} (h : carryOut o s ≠ .fault .transportSilent) :
    takeOffer o s = carryOut o s := by
  unfold takeOffer
  split
  next h' => exact absurd h' h
  next => rfl

theorem takeOffer_of_hang {o : Offer} {s : State} (h : carryOut o s = .fault .transportSilent) :
    takeOffer o s = besideHang o s := by
  simp [takeOffer, h]

/-- What carrying out an offer can lead to. -/
theorem carryOut_next {o : Offer} {s t : State} (h : carryOut o s = .next t) :
    t = s.afterReset ∨ (∃ n, t = answerStat n s) ∨ ∃ i, exec i s = .next t := by
  unfold carryOut at h
  split at h
  next => cases h; exact .inl rfl
  next n => cases h; exact .inr (.inl ⟨n, rfl⟩)
  next i => exact .inr (.inr ⟨i, h⟩)
  next => cases h

/-- What a step with a next state did: waited, reset (with the answers of an operation that hung
used up), answered a status read, or carried out an operation, with some offers left. -/
theorem step_next {s t : State} (h : step s = .next t) :
    (s.offers = [] ∧ t = s) ∨
    ∃ rest, (∃ as d, t = ({ s with offers := rest, answers := as, draws := d }).afterReset) ∨
      (∃ n, t = answerStat n { s with offers := rest }) ∨
      ∃ i, exec i { s with offers := rest } = .next t := by
  have lift : ∀ {o : Offer} {rest : List Offer}, carryOut o { s with offers := rest } = .next t →
      ∃ rest, (∃ as d, t = ({ s with offers := rest, answers := as, draws := d }).afterReset) ∨
        (∃ n, t = answerStat n { s with offers := rest }) ∨
        ∃ i, exec i { s with offers := rest } = .next t := fun {_ rest} hc =>
    ⟨rest, (carryOut_next hc).imp (fun e => ⟨s.answers, s.draws, e⟩) id⟩
  unfold step at h
  split at h
  next hn =>
    cases h
    refine .inl ⟨?_, rfl⟩
    unfold nextOffer at hn
    split at hn
    next => cases hn
    next => split at hn <;> simp_all
  next o rest hn =>
    right
    by_cases hs : carryOut o { s with offers := rest } = .fault .transportSilent
    · rw [takeOffer_of_hang hs] at h
      unfold besideHang at h
      split at h
      next => cases h
      next rest' _ => cases h; exact ⟨rest', .inl ⟨_, _, rfl⟩⟩
      next o' rest' _ _ => exact lift h
    · rw [takeOffer_of_ne hs] at h
      exact lift h

/-! ### The wires -/

/-- An operation read from the wires joins the offers, at their end. -/
theorem State.offerWires_of_some {s : State} {ser : Config.CmdSerialisation} {wires : List Byte}
    {i : Instr} (h : ser.read wires = some i) :
    s.offerWires ser wires = { s with offers := s.offers ++ [.op i] } := by
  simp [State.offerWires, h]

/-- Bytes read as no operation are not accepted (R152). -/
theorem State.offerWires_of_none {s : State} {ser : Config.CmdSerialisation} {wires : List Byte}
    (h : ser.read wires = none) : s.offerWires ser wires = s := by
  simp [State.offerWires, h]

end Sys2Proof.Machine
end

