-- ==== Sys2Proof/Laws/PerInstr.lean ====
section
/-! SUPPORT. A statement about every instruction as syntax, one lemma per constructor: the code an
operation's bytes begin with is its row's `port_op` (30_encoding R70, R74), and that code is
assigned. -/

namespace Sys2Proof.Laws.PortOp

/-- The `port_op` of the instruction's row in spec/opcode_table.json, as a number. -/
def tableCode : Instr → Nat
  | .sendRaw _ => 0
  | .beginTx => 1
  | .endTx => 2
  | .rawSetting _ _ => 6
  | .rawKeyRgb _ _ => 17
  | .setMode _ => 32
  | .setBrightness _ => 33
  | .setSpeed _ => 34
  | .setDirection _ => 35
  | .setColorful _ => 36
  | .setColor _ => 37
  | .setPollingRate _ => 47
  | .setGradient _ => 49
  | .fePush _ => 128
  | .feFin => 129
  | .fePop => 130

/-- The operation's bytes begin with its row's code. -/
def Statement (i : Instr) : Prop := (encode i).head?.map BitVec.toNat = some (tableCode i)

theorem sendRaw (p : Payload) : Statement (.sendRaw p) := rfl
theorem beginTx : Statement .beginTx := rfl
theorem endTx : Statement .endTx := rfl
theorem rawSetting (id : Byte) (d : List Byte) : Statement (.rawSetting id d) := rfl
theorem rawKeyRgb (o : BitVec 16) (cs : List Colour) : Statement (.rawKeyRgb o cs) := rfl
theorem setMode (m : Byte) : Statement (.setMode m) := rfl
theorem setBrightness (v : Byte) : Statement (.setBrightness v) := rfl
theorem setSpeed (v : Byte) : Statement (.setSpeed v) := rfl
theorem setDirection (f : Bool) : Statement (.setDirection f) := rfl
theorem setColorful (e : Bool) : Statement (.setColorful e) := rfl
theorem setColor (c : Colour) : Statement (.setColor c) := rfl
theorem setPollingRate (v : Byte) : Statement (.setPollingRate v) := rfl
theorem setGradient (v : Byte) : Statement (.setGradient v) := rfl
theorem fePush (b : Byte) : Statement (.fePush b) := rfl
theorem feFin : Statement .feFin := rfl
theorem fePop : Statement .fePop := rfl

end Sys2Proof.Laws.PortOp
end

