-- ==== Sys2Proof/Certificates/Slice0/Obligations.lean ====
section
/-! DEFINITION. What the provers are asked to show of the model. Each statement cites the rule of
spec/ it formalises; a result of an operation is given as the whole next state, so that everything
not named is unchanged. -/

open Sys2Proof Sys2Proof.Machine Sys2Proof.Safety

/-! ### The frame function -/

/-- R81: a payload of at most 61 bytes gives a 64-byte frame: report type, checksum low byte first,
the payload, zeros. -/
def Obligations.EncodeLaysOutFrame : Prop :=
  ∀ p : Payload, p.length ≤ 61 →
    ∃ f, encodeFrame p = .ok f ∧ f.length = 64 ∧ f[0]? = some 0x04 ∧
      (∃ lo hi : Byte, f[1]? = some lo ∧ f[2]? = some hi ∧
        lo.toNat + 256 * hi.toNat = byteSum p % 65536) ∧
      (∀ i, i < p.length → f[3 + i]? = p[i]?) ∧
      (∀ i, 3 + p.length ≤ i → i < 64 → f[i]? = some 0)

/-- R82: a longer payload is refused and gives no frame. -/
def Obligations.EncodeRefusesOversize : Prop :=
  ∀ p : Payload, 61 < p.length → encodeFrame p = .error .payloadTooLarge

/-- R80: the checksum is the sum of the bytes modulo 65536, and for every payload that fits a frame
the sum is at most 15555, so the `mod` does nothing. -/
def Obligations.ChecksumIsByteSum : Prop :=
  (∀ p : Payload, (checksum p).toNat = byteSum p % 65536) ∧ checksum [] = 0 ∧
    ∀ p : Payload, p.length ≤ 61 → byteSum p ≤ 15555 ∧ (checksum p).toNat = byteSum p

/-- R91: the properties (a) to (h) of `encode`. -/
def Obligations.EncodeProperties : Prop :=
  (∀ (p : Payload) (f : Frame), encodeFrame p = .ok f →
    f.length = 64 ∧ f[0]? = some 0x04 ∧
    (∃ pad, f.drop (3 + p.length) = List.replicate pad 0 ∧ pad = 61 - p.length ∧ p.length ≤ 61) ∧
    (∃ lo hi : Byte, f[1]? = some lo ∧ f[2]? = some hi ∧ hi.toNat ≤ 0x3C ∧
      lo.toNat + 256 * hi.toNat ≤ 15555 ∧ lo.toNat + 256 * hi.toNat = byteSum (f.drop 3))) ∧
  (∀ p : Payload, p.length ≤ 60 → encodeFrame p = encodeFrame (p ++ [0])) ∧
  (∀ p q : Payload, p.length = q.length → q.length ≤ 61 → encodeFrame p = encodeFrame q → p = q) ∧
  (∀ p q : Payload, p.Perm q → checksum p = checksum q)

/-- R75: sixty-four bytes are a well-formed frame (some payload length explains them) exactly when
the report type is right and bytes 1 and 2 are the sum of bytes 3 to 63. -/
def Obligations.FrameReadBack : Prop :=
  ∀ (rtype lo hi : Byte) (body : List Byte), body.length = 61 →
    ((rtype = 0x04 ∧ ∃ n, n ≤ 61 ∧ (∀ b ∈ body.drop n, b = 0) ∧
        lo.toNat + 256 * hi.toNat = byteSum (body.take n)) ↔
      wellFormedFrame (rtype :: lo :: hi :: body) = true)

/-! ### The byte-level encoder -/

/-- R85: `FE.PUSH` (code `0x80`) stores, sums and counts a byte while there is room, and sets
`FE.ovf` when there is none. -/
def Obligations.PushStoresOrOverflows : Prop :=
  ∀ (b : Byte) (s : State), opcode (.fePush b) = 0x80 ∧ (s.fe.phase = .load →
    (s.fe.ovf = false → s.fe.plen.toNat < 61 →
      exec (.fePush b) s = .next { s with fe := { s.fe with
        pbuf := Memory.write s.fe.pbuf s.fe.plen.toNat b
        csum := BitVec.ofNat 16 (s.fe.csum.toNat + b.toNat)
        plen := BitVec.ofNat 6 (s.fe.plen.toNat + 1) } }) ∧
    (s.fe.ovf = true ∨ 61 ≤ s.fe.plen.toNat →
      exec (.fePush b) s = .next { s with fe := { s.fe with ovf := true } }))

/-- Of the buffer, a `FE.PUSH` that stores changes the byte at `FE.plen` and no other (20_memory
R50, 10_state R23). -/
def Obligations.PushWritesOneByte : Prop :=
  ∀ (b : Byte) (s : State), s.fe.phase = .load → Memory.wf s.fe.pbuf = true →
    ∃ t, exec (.fePush b) s = .next t ∧ Memory.wf t.fe.pbuf = true ∧
      ∀ a, Memory.read t.fe.pbuf a =
        if s.fe.ovf = false ∧ s.fe.plen.toNat < 61 ∧ a = s.fe.plen.toNat then b
        else Memory.read s.fe.pbuf a

/-- R86: `FE.FIN` (code `0x81`) starts the emission, or reports an oversize payload and empties the
encoder; its result code goes to `err` and out on `RES` (R140). -/
def Obligations.FinStartsOrRefuses : Prop :=
  opcode .feFin = 0x81 ∧ ∀ s : State, s.fe.phase = .load →
    (s.fe.ovf = false → exec .feFin s = .next { s with
      fe := { s.fe with oidx := 0, phase := .emit }
      err := .ok
      replies := s.replies ++ [.res .ok] }) ∧
    (s.fe.ovf = true → exec .feFin s = .next { s with
      fe := { s.fe with plen := 0, csum := 0, ovf := false }
      err := .payloadTooLarge
      replies := s.replies ++ [.res .payloadTooLarge] })

/-- R87: the byte of the frame at each index, from the encoder's registers. -/
def Obligations.FrameByteByIndex : Prop :=
  ∀ (fe : FrameEncoder) (i : BitVec 6),
    (i.toNat = 0 → fe.frameByte i = 0x04) ∧
    (i.toNat = 1 → (fe.frameByte i).toNat = fe.csum.toNat % 256) ∧
    (i.toNat = 2 → (fe.frameByte i).toNat = fe.csum.toNat / 256) ∧
    (3 ≤ i.toNat → i.toNat < 3 + fe.plen.toNat →
      fe.frameByte i = Memory.read fe.pbuf (i.toNat - 3)) ∧
    (3 ≤ i.toNat → 3 + fe.plen.toNat ≤ i.toNat → fe.frameByte i = 0)

/-- R88: `FE.POP` (code `0x82`) returns the frame byte at `FE.oidx` with its marks and moves on; the
one at index 63 leaves the encoder empty. -/
def Obligations.PopEmitsFrameByte : Prop :=
  opcode .fePop = 0x82 ∧ ∀ s : State, s.fe.phase = .emit →
    (s.fe.oidx.toNat ≠ 63 → exec .fePop s = .next { s with
      fe := { s.fe with oidx := BitVec.ofNat 6 (s.fe.oidx.toNat + 1) }
      replies := s.replies ++
        [.popped (s.fe.frameByte s.fe.oidx) (decide (s.fe.oidx.toNat = 0)) false] }) ∧
    (s.fe.oidx.toNat = 63 → exec .fePop s = .next { s with
      fe := { s.fe with oidx := 0, plen := 0, csum := 0, phase := .load }
      replies := s.replies ++ [.popped (s.fe.frameByte 63) false true] })

/-- R89: an operation offered in the wrong phase has no step; the sixty-fourth `FE.POP` lifts the
hold on `IN`, and a successful `FE.FIN` the one on `OUT`. -/
def Obligations.WrongPhaseIsHeld : Prop :=
  ∀ (b : Byte) (s : State),
    (s.fe.phase = .emit →
      exec (.fePush b) s = .fault .inputHeld ∧ exec .feFin s = .fault .inputHeld ∧
      ∃ t, exec .fePop s = .next t ∧
        ((∃ u, exec (.fePush b) t = .next u) ↔ s.fe.oidx.toNat = 63) ∧
        ((∃ u, exec .feFin t = .next u) ↔ s.fe.oidx.toNat = 63)) ∧
    (s.fe.phase = .load → exec .fePop s = .fault .outputHeld ∧
      ∃ t, exec .feFin s = .next t ∧ ((∃ u, exec .fePop t = .next u) ↔ s.fe.ovf = false))

/-- A held push stays offered while the pop behind it is taken (R89; that a held offer is passed
over and not dropped is the model's reading, assumption log, entry 2). -/
def Obligations.HeldPushWaitsForPop : Prop :=
  ∀ (b : Byte) (s : State) (rest : List Offer), s.fe.phase = .emit →
    s.offers = .op (.fePush b) :: .op .fePop :: rest →
    step s = exec .fePop { s with offers := .op (.fePush b) :: rest }

/-- R90: from an empty encoder, pushing a payload, finishing it and popping 64 times gives the
bytes of `encode`, with their marks, and leaves the encoder empty; an oversize payload is reported
and offers nothing. The result code of `FE.FIN` is on `RES` and in `err` (R140), and nothing else but
the encoder changes: that `FE.PUSH` and `FE.POP` return no code and leave `err` is the model's reading
(assumption log, entry 6). -/
def Obligations.ByteLevelRefinesEncode : Prop :=
  ∀ (s : State) (p : Payload), feEmpty s.fe = true → Memory.wf s.fe.pbuf = true → p.length ≤ 255 →
    (p.length ≤ 61 → ∃ f t, encodeFrame p = .ok f ∧
      runAll (p.map .fePush ++ .feFin :: List.replicate 64 .fePop) s = .next t ∧
      t.replies = s.replies ++ .res .ok :: popReplies f ∧ feEmpty t.fe = true ∧
      t.err = .ok ∧ { t with fe := s.fe, err := s.err, replies := s.replies } = s) ∧
    (61 < p.length → ∃ t, encodeFrame p = .error .payloadTooLarge ∧
      runAll (p.map .fePush ++ [.feFin]) s = .next t ∧
      t.replies = s.replies ++ [.res .payloadTooLarge] ∧ feEmpty t.fe = true ∧
      exec .fePop t = .fault .outputHeld ∧ t.err = .payloadTooLarge ∧
      { t with fe := s.fe, err := s.err, replies := s.replies } = s)

/-! ### The operations that build and send a payload -/

/-- R123: `SEND_RAW` (code `0x00`) sends any payload of at most 61 bytes unchanged, without touching
`TS.state`; a longer one is `PayloadTooLarge`, and nothing of it is sent; a failed send is
`TransportFailure`. -/
def Obligations.SendRawSendsPayload : Prop :=
  ∀ (p : Payload) (s : State), s.fault = false →
    opcode (.sendRaw p) = 0x00 ∧
    (p.length ≤ 61 → endingAt s 0 = some .ok →
      exec (.sendRaw p) s = .next (outcomeOf s [⟨frameOf p, .ok⟩] s.ts false .ok)) ∧
    (p.length ≤ 61 → s.ts = .idle → ∀ e, e ≠ .ok → endingAt s 0 = some e →
      exec (.sendRaw p) s = .next (outcomeOf s [⟨frameOf p, e⟩] .idle true .transportFailure)) ∧
    (61 < p.length →
      raises (.sendRaw p) .payloadTooLarge ∧ (s.ts = .idle →
        exec (.sendRaw p) s = .next (outcomeOf s [] .idle false .payloadTooLarge)))

/-- R100: `RAW_SETTING` (code `0x06`) sends `06 len id 00 00` and its data, any id, up to 56 data
bytes; more are `PayloadTooLarge`. -/
def Obligations.RawSettingSendsHeaderAndData : Prop :=
  ∀ (id : Byte) (data : List Byte) (s : State), s.profile.hasCb = true → s.fault = false →
    opcode (.rawSetting id data) = 0x06 ∧
    (data.length ≤ 56 → endingAt s 0 = some .ok →
      exec (.rawSetting id data) s = .next (outcomeOf s
        [⟨frameOf ([0x06, BitVec.ofNat 8 data.length, id, 0, 0] ++ data), .ok⟩] s.ts false .ok)) ∧
    (56 < data.length →
      raises (.rawSetting id data) .payloadTooLarge ∧ (s.ts = .idle →
        exec (.rawSetting id data) s = .next (outcomeOf s [] .idle false .payloadTooLarge)))

/-- R101: `RAW_KEY_RGB` (code `0x11`) checks its colours, then its offset, then their count, and
sends `11 3k lo hi 00` and three bytes a colour, high byte first. -/
def Obligations.RawKeyRgbChecksAndSends : Prop :=
  ∀ (o : BitVec 16) (cs : List Colour) (s : State), s.profile.hasCb = true → s.fault = false →
    opcode (.rawKeyRgb o cs) = 0x11 ∧
    ((∃ c ∈ cs, 0xFFFFFF < c.toNat) →
      raises (.rawKeyRgb o cs) .valueOutOfRange ∧ (s.ts = .idle →
        exec (.rawKeyRgb o cs) s = .next (outcomeOf s [] .idle false .valueOutOfRange))) ∧
    ((∀ c ∈ cs, c.toNat ≤ 0xFFFFFF) → 21845 < o.toNat →
      raises (.rawKeyRgb o cs) .valueOutOfRange ∧ (s.ts = .idle →
        exec (.rawKeyRgb o cs) s = .next (outcomeOf s [] .idle false .valueOutOfRange))) ∧
    ((∀ c ∈ cs, c.toNat ≤ 0xFFFFFF) → o.toNat ≤ 21845 → 18 < cs.length →
      raises (.rawKeyRgb o cs) .payloadTooLarge ∧ (s.ts = .idle →
        exec (.rawKeyRgb o cs) s = .next (outcomeOf s [] .idle false .payloadTooLarge))) ∧
    ((∀ c ∈ cs, c.toNat ≤ 0xFFFFFF) → o.toNat ≤ 21845 → cs.length ≤ 18 →
      endingAt s 0 = some .ok →
      exec (.rawKeyRgb o cs) s = .next (outcomeOf s
        [⟨frameOf ([0x11, BitVec.ofNat 8 (3 * cs.length), BitVec.ofNat 8 (o.toNat * 3),
            BitVec.ofNat 8 (o.toNat * 3 / 256), 0] ++
          cs.flatMap fun c => [BitVec.ofNat 8 (c.toNat / 65536), BitVec.ofNat 8 (c.toNat / 256),
            BitVec.ofNat 8 c.toNat]), .ok⟩] s.ts false .ok))

/-- R102: `SET_MODE` (code `0x20`) sends `06 01 00 00 00 mode` for modes 1 to 0x21 and refuses the
others. -/
def Obligations.SetModeSends : Prop :=
  ∀ (m : Byte) (s : State), s.profile.hasCb = true → s.fault = false →
    opcode (.setMode m) = 0x20 ∧
    (1 ≤ m.toNat → m.toNat ≤ 0x21 → endingAt s 0 = some .ok →
      exec (.setMode m) s = .next (outcomeOf s
        [⟨frameOf [0x06, 0x01, 0x00, 0x00, 0x00, m], .ok⟩] s.ts false .ok)) ∧
    (m.toNat < 1 ∨ 0x21 < m.toNat →
      raises (.setMode m) .valueOutOfRange ∧ (s.ts = .idle →
        exec (.setMode m) s = .next (outcomeOf s [] .idle false .valueOutOfRange)))

/-- R103: `SET_BRIGHTNESS` (code `0x21`) sends `06 01 01 00 00 level` for levels 0 to 3 and refuses
the others. -/
def Obligations.SetBrightnessSends : Prop :=
  ∀ (v : Byte) (s : State), s.profile.hasCb = true → s.fault = false →
    opcode (.setBrightness v) = 0x21 ∧
    (v.toNat ≤ 3 → endingAt s 0 = some .ok →
      exec (.setBrightness v) s = .next (outcomeOf s
        [⟨frameOf [0x06, 0x01, 0x01, 0x00, 0x00, v], .ok⟩] s.ts false .ok)) ∧
    (3 < v.toNat →
      raises (.setBrightness v) .valueOutOfRange ∧ (s.ts = .idle →
        exec (.setBrightness v) s = .next (outcomeOf s [] .idle false .valueOutOfRange)))

/-- R104: `SET_SPEED` (code `0x22`) sends `06 01 02 00 00 speed` for speeds 0 to 3 and refuses the
others. -/
def Obligations.SetSpeedSends : Prop :=
  ∀ (v : Byte) (s : State), s.profile.hasCb = true → s.fault = false →
    opcode (.setSpeed v) = 0x22 ∧
    (v.toNat ≤ 3 → endingAt s 0 = some .ok →
      exec (.setSpeed v) s = .next (outcomeOf s
        [⟨frameOf [0x06, 0x01, 0x02, 0x00, 0x00, v], .ok⟩] s.ts false .ok)) ∧
    (3 < v.toNat →
      raises (.setSpeed v) .valueOutOfRange ∧ (s.ts = .idle →
        exec (.setSpeed v) s = .next (outcomeOf s [] .idle false .valueOutOfRange)))

/-- R105: `SET_DIRECTION` (code `0x23`) sends `06 01 03 00 00` and `01`, or `FF` for not forward. -/
def Obligations.SetDirectionSends : Prop :=
  ∀ (forward : Bool) (s : State), s.profile.hasCb = true → s.fault = false →
    opcode (.setDirection forward) = 0x23 ∧
    (endingAt s 0 = some .ok →
      exec (.setDirection forward) s = .next (outcomeOf s
        [⟨frameOf [0x06, 0x01, 0x03, 0x00, 0x00, if forward then 0x01 else 0xFF], .ok⟩]
      s.ts false .ok))

/-- R106: `SET_COLORFUL` (code `0x24`) sends `06 01 04 00 00` and `01` or `00`. -/
def Obligations.SetColorfulSends : Prop :=
  ∀ (enabled : Bool) (s : State), s.profile.hasCb = true → s.fault = false →
    opcode (.setColorful enabled) = 0x24 ∧
    (endingAt s 0 = some .ok →
      exec (.setColorful enabled) s = .next (outcomeOf s
        [⟨frameOf [0x06, 0x01, 0x04, 0x00, 0x00, if enabled then 0x01 else 0x00], .ok⟩]
      s.ts false .ok))

/-- R107: `SET_COLOR` (code `0x25`) sends `06 03 05 00 00` and the colour, high byte first, for
colours up to 0xFFFFFF, and refuses the others. -/
def Obligations.SetColorSends : Prop :=
  ∀ (c : Colour) (s : State), s.profile.hasCb = true → s.fault = false →
    opcode (.setColor c) = 0x25 ∧
    (c.toNat ≤ 0xFFFFFF → endingAt s 0 = some .ok →
      exec (.setColor c) s = .next (outcomeOf s
        [⟨frameOf [0x06, 0x03, 0x05, 0x00, 0x00, BitVec.ofNat 8 (c.toNat / 65536),
          BitVec.ofNat 8 (c.toNat / 256), BitVec.ofNat 8 c.toNat], .ok⟩] s.ts false .ok)) ∧
    (0xFFFFFF < c.toNat →
      raises (.setColor c) .valueOutOfRange ∧ (s.ts = .idle →
        exec (.setColor c) s = .next (outcomeOf s [] .idle false .valueOutOfRange)))

/-- R108: `SET_POLLING_RATE` (code `0x2F`) sends `06 01 0F 00 00 rate` for rates 0 to 3 and refuses
the others. -/
def Obligations.SetPollingRateSends : Prop :=
  ∀ (v : Byte) (s : State), s.profile.hasCb = true → s.fault = false →
    opcode (.setPollingRate v) = 0x2F ∧
    (v.toNat ≤ 3 → endingAt s 0 = some .ok →
      exec (.setPollingRate v) s = .next (outcomeOf s
        [⟨frameOf [0x06, 0x01, 0x0F, 0x00, 0x00, v], .ok⟩] s.ts false .ok)) ∧
    (3 < v.toNat →
      raises (.setPollingRate v) .valueOutOfRange ∧ (s.ts = .idle →
        exec (.setPollingRate v) s = .next (outcomeOf s [] .idle false .valueOutOfRange)))

/-- R109: `SET_GRADIENT` (code `0x31`) sends `06 01 11 00 00 level` for levels 0 to 3 and refuses
the others. -/
def Obligations.SetGradientSends : Prop :=
  ∀ (v : Byte) (s : State), s.profile.hasCb = true → s.fault = false →
    opcode (.setGradient v) = 0x31 ∧
    (v.toNat ≤ 3 → endingAt s 0 = some .ok →
      exec (.setGradient v) s = .next (outcomeOf s
        [⟨frameOf [0x06, 0x01, 0x11, 0x00, 0x00, v], .ok⟩] s.ts false .ok)) ∧
    (3 < v.toNat →
      raises (.setGradient v) .valueOutOfRange ∧ (s.ts = .idle →
        exec (.setGradient v) s = .next (outcomeOf s [] .idle false .valueOutOfRange)))

/-- The expansions of R73: in range, a setter does what the `RAW_SETTING` it stands for does, and
the raw builders do what `SEND_RAW` of their payload does. -/
def Obligations.PseudoOperationsExpand : Prop :=
  ∀ s : State,
    (∀ m : Byte, 1 ≤ m.toNat → m.toNat ≤ 0x21 →
      exec (.setMode m) s = exec (.rawSetting 0 [m]) s) ∧
    (∀ v : Byte, v.toNat ≤ 3 →
      exec (.setBrightness v) s = exec (.rawSetting 1 [v]) s ∧
      exec (.setSpeed v) s = exec (.rawSetting 2 [v]) s ∧
      exec (.setPollingRate v) s = exec (.rawSetting 15 [v]) s ∧
      exec (.setGradient v) s = exec (.rawSetting 17 [v]) s) ∧
    (∀ b : Bool,
      exec (.setDirection b) s = exec (.rawSetting 3 [if b then 0x01 else 0xFF]) s ∧
      exec (.setColorful b) s = exec (.rawSetting 4 [if b then 0x01 else 0x00]) s) ∧
    (∀ c : Colour, c.toNat ≤ 0xFFFFFF → exec (.setColor c) s = exec (.rawSetting 5 (be24 c)) s) ∧
    (s.profile.hasCb = true → ∀ (id : Byte) (d : List Byte),
      exec (.rawSetting id d) s =
        exec (.sendRaw ([0x06, BitVec.ofNat 8 d.length, id, 0, 0] ++ d)) s) ∧
    (s.profile.hasCb = true → ∀ (o : BitVec 16) (cs : List Colour), o.toNat ≤ 21845 →
      cs.length ≤ 18 → (∀ c ∈ cs, c.toNat ≤ 0xFFFFFF) →
      exec (.rawKeyRgb o cs) s = exec (.sendRaw (rawKeyRgb o cs)) s)

/-! ### Transactions -/

/-- R124: `BEGIN` (code `0x01`) from Idle sends the begin marker; the transaction is open if and
only if the send succeeded, and a failed send faults the session. Inside a transaction it is
`TransactionAlreadyOpen`. -/
def Obligations.BeginOpensTransaction : Prop :=
  opcode .beginTx = 0x01 ∧
  ∀ s : State, s.profile.hasTs = true → s.fault = false →
    (s.ts = .idle → endingAt s 0 = some .ok →
      exec .beginTx s = .next (outcomeOf s [⟨frameOf [0x01], .ok⟩] .inTransaction false .ok)) ∧
    (s.ts = .idle → ∀ e, e ≠ .ok → endingAt s 0 = some e →
      exec .beginTx s = .next (outcomeOf s [⟨frameOf [0x01], e⟩] .idle true .transportFailure)) ∧
    (s.ts = .inTransaction → endingAt s 0 = some .ok → ∃ t, exec .beginTx s = .next t ∧
      t.err = .transactionAlreadyOpen ∧ t.replies = s.replies ++ [.res .transactionAlreadyOpen])

/-- R125: `END` (code `0x02`) inside a transaction sends the end marker and leaves Idle, whether or
not the send succeeded; a failed send faults the session. In Idle it is `TransactionNotOpen`. -/
def Obligations.EndClosesTransaction : Prop :=
  opcode .endTx = 0x02 ∧
  ∀ s : State, s.profile.hasTs = true → s.fault = false →
    (s.ts = .inTransaction → endingAt s 0 = some .ok →
      exec .endTx s = .next (outcomeOf s [⟨frameOf [0x02], .ok⟩] .idle false .ok)) ∧
    (s.ts = .inTransaction → ∀ e, e ≠ .ok → endingAt s 0 = some e →
      exec .endTx s = .next (outcomeOf s [⟨frameOf [0x02], e⟩] .idle true .transportFailure)) ∧
    (s.ts = .idle → ∃ t, exec .endTx s = .next t ∧
      t.err = .transactionNotOpen ∧ t.replies = s.replies ++ [.res .transactionNotOpen])

/-- R130: a nested `BEGIN` sends no begin marker; the transaction is closed with the end marker and
the result is `TransactionAlreadyOpen`. -/
def Obligations.NestedBeginCloses : Prop :=
  ∀ s : State, s.profile.hasTs = true → s.fault = false → s.ts = .inTransaction →
    endingAt s 0 = some .ok →
    exec .beginTx s =
      .next (outcomeOf s [⟨frameOf [0x02], .ok⟩] .idle false .transactionAlreadyOpen)

/-- R132: `END` in Idle sends nothing and returns `TransactionNotOpen`. -/
def Obligations.EndInIdleRefused : Prop :=
  ∀ s : State, s.profile.hasTs = true → s.fault = false → s.ts = .idle →
    exec .endTx s = .next (outcomeOf s [] .idle false .transactionNotOpen)

/-- R131: while `fault` is 1 every `CMD` operation the block has returns `SessionFaulted`, sends
nothing and leaves `TS.state`; no operation clears `fault`; status reads still work. -/
def Obligations.FaultedBlockRefuses : Prop :=
  ∀ s : State, s.fault = true →
    (∀ i : Instr, isCmd i = true → accepted i s = true →
      exec i s = .next (outcomeOf s [] s.ts true .sessionFaulted)) ∧
    (∀ (i : Instr) (t : State), exec i s = .next t → t.fault = true) ∧
    ∀ (n : Byte) (rest : List Offer), s.offers = .stat n :: rest → ∃ t, step s = .next t ∧
      t.replies = s.replies ++ [.stat n (s.readStat n)]

/-- R128: an error of any operation but `END` inside a transaction sends the end marker and returns
to Idle, and then the error is returned; a faulted block does not. -/
def Obligations.AutoCloseOnError : Prop :=
  ∀ (i : Instr) (s : State), s.profile.hasTs = true → s.ts = .inTransaction →
    accepted i s = true →
    (s.fault = false → isBody i = true → endingAt s 0 = some .ok → ∀ e, raises i e →
      exec i s = .next (outcomeOf s [⟨frameOf [0x02], .ok⟩] .idle false e)) ∧
    (s.fault = false → isBody i = true → ∀ p e, sends i p → e ≠ .ok → endingAt s 0 = some e →
      endingAt s 1 = some .ok →
      exec i s = .next (outcomeOf s [⟨frameOf p, e⟩, ⟨frameOf [0x02], .ok⟩] .idle true
        .transportFailure)) ∧
    (s.fault = false → i = .beginTx → endingAt s 0 = some .ok →
      exec i s = .next (outcomeOf s [⟨frameOf [0x02], .ok⟩] .idle false .transactionAlreadyOpen)) ∧
    (s.fault = true → isCmd i = true →
      exec i s = .next (outcomeOf s [] .inTransaction true .sessionFaulted))

/-- R129: when the end-marker send of an `END` or an auto-close fails, the result is
`TransportFailure` whatever triggered it, `fault` is set and the state is Idle. -/
def Obligations.ReleaseFailureWins : Prop :=
  ∀ (i : Instr) (s : State) (x : SendEnd), s.profile.hasTs = true → s.ts = .inTransaction →
    s.fault = false → accepted i s = true → x ≠ .ok →
    (isBody i = true → endingAt s 0 = some x → ∀ e, raises i e →
      exec i s = .next (outcomeOf s [⟨frameOf [0x02], x⟩] .idle true .transportFailure)) ∧
    (isBody i = true → ∀ p e, sends i p → e ≠ .ok → endingAt s 0 = some e →
      endingAt s 1 = some x →
      exec i s = .next (outcomeOf s [⟨frameOf p, e⟩, ⟨frameOf [0x02], x⟩] .idle true
        .transportFailure)) ∧
    (i = .beginTx ∨ i = .endTx → endingAt s 0 = some x →
      exec i s = .next (outcomeOf s [⟨frameOf [0x02], x⟩] .idle true .transportFailure))

/-- R126, R127: a body command sends its payload in either state and does not change `TS.state`
when it succeeds; outside a transaction its error is simply returned. -/
def Obligations.BodyCommandSends : Prop :=
  ∀ (i : Instr) (s : State), isBody i = true → accepted i s = true → s.fault = false →
    (∀ p, sends i p → endingAt s 0 = some .ok →
      exec i s = .next (outcomeOf s [⟨frameOf p, .ok⟩] s.ts false .ok)) ∧
    (s.ts = .idle → ∀ e, raises i e → exec i s = .next (outcomeOf s [] .idle false e)) ∧
    (s.ts = .idle → ∀ p e, sends i p → e ≠ .ok → endingAt s 0 = some e →
      exec i s = .next (outcomeOf s [⟨frameOf p, e⟩] .idle true .transportFailure))

/-- R133: a transaction whose builds, encodes and sends all succeed adds exactly the begin marker,
the body's frames in order and the end marker to the history, and ends in Idle. -/
def Obligations.SuccessfulTransaction : Prop :=
  ∀ (s : State) (body : List (Instr × Payload)), s.profile.hasTs = true → s.ts = .idle →
    s.fault = false →
    (∀ x ∈ body, isBody x.1 = true ∧ accepted x.1 s = true ∧ sends x.1 x.2) →
    (∀ k, k < body.length + 2 → endingAt s k = some .ok) →
    runAll (.beginTx :: body.map Prod.fst ++ [.endTx]) s = .next { s with
      ts := .idle
      fault := false
      err := .ok
      txHistory := s.txHistory ++
        (([0x01] :: body.map Prod.snd ++ [[0x02]]).map fun p => ⟨frameOf p, .ok⟩)
      answers := s.answers.drop (body.length + 2)
      draws := s.draws + (body.length + 2)
      replies := s.replies ++ List.replicate (body.length + 2) (.res .ok) }

/-- R134: when a body command raises an error, the begin marker, the frames of the commands before
it and the end marker are sent, the command itself sends nothing, and its own error is returned in
state Idle. -/
def Obligations.FailingBodyReleases : Prop :=
  ∀ (s : State) (body : List (Instr × Payload)) (c : Instr) (e : ResultCode),
    s.profile.hasTs = true → s.ts = .idle → s.fault = false →
    (∀ x ∈ body, isBody x.1 = true ∧ accepted x.1 s = true ∧ sends x.1 x.2) →
    isBody c = true → accepted c s = true → raises c e →
    (∀ k, k < body.length + 2 → endingAt s k = some .ok) →
    runAll (.beginTx :: body.map Prod.fst ++ [c]) s = .next { s with
      ts := .idle
      fault := false
      err := e
      txHistory := s.txHistory ++
        (([0x01] :: body.map Prod.snd ++ [[0x02]]).map fun p => ⟨frameOf p, .ok⟩)
      answers := s.answers.drop (body.length + 2)
      draws := s.draws + (body.length + 2)
      replies := s.replies ++ List.replicate (body.length + 1) (.res .ok) ++ [.res e] }

/-- R135: without the sequencer `BEGIN` and `END` only send their markers, no error closes
anything, and `fault` and `SessionFaulted` remain. -/
def Obligations.WithoutSequencer : Prop :=
  ∀ (i : Instr) (s : State), s.profile.hasTs = false → isCmd i = true → accepted i s = true →
    (s.fault = true → exec i s = .next (outcomeOf s [] s.ts true .sessionFaulted)) ∧
    (s.fault = false → ∀ p, sends i p → endingAt s 0 = some .ok →
      exec i s = .next (outcomeOf s [⟨frameOf p, .ok⟩] s.ts false .ok)) ∧
    (s.fault = false → ∀ p e, sends i p → e ≠ .ok → endingAt s 0 = some e →
      exec i s = .next (outcomeOf s [⟨frameOf p, e⟩] s.ts true .transportFailure)) ∧
    (s.fault = false → ∀ e, raises i e → exec i s = .next (outcomeOf s [] s.ts false e)) ∧
    (i = .beginTx → sends i [0x01]) ∧ (i = .endTx → sends i [0x02])

/-! ### The transport -/

/-- R120: a send offers its frame to the history with how it ended; a failed write skips the read,
and the response is not looked at. -/
def Obligations.TransportSendEndings : Prop :=
  ∀ (f : Frame) (s : State) (a : Answer) (rest : List Answer), s.answers = a :: rest →
    (a.wr = .no → transportSend f s = some (.writeFailed, { s with
      txHistory := s.txHistory ++ [⟨f, .writeFailed⟩], answers := rest, draws := s.draws + 1
      fault := true })) ∧
    (a.wr = .yes → a.rd = .no → transportSend f s = some (.readFailed, { s with
      txHistory := s.txHistory ++ [⟨f, .readFailed⟩], answers := rest, draws := s.draws + 1
      fault := true })) ∧
    (a.wr = .yes → a.rd = .yes → transportSend f s = some (.ok, { s with
      txHistory := s.txHistory ++ [⟨f, .ok⟩], answers := rest, draws := s.draws + 1 }))

/-- No step depends on the 64 response bytes of any answer: two runs that differ only in them stay
so (10_state R36, 42_transaction_sequencer R120). -/
def Obligations.ResponsesNeverMatter : Prop :=
  ∀ s : State, step (blindToResponses s) = mapNext blindToResponses (step s)

/-- R170: an operation whose next send is never answered never completes: a body command in either
state, `BEGIN` from Idle and nested, `END`, and the auto-close of a body command, after a raised error
or after a failed send. A send is never answered exactly when its answer stays out and there is no
timeout; with a timeout the silence is a `TransportFailure` (R144). The fault is the model's form of
the hang, and the list of answers its form of the oracle (assumption log, entries 3 and 4). -/
def Obligations.SilentTransportHangs : Prop :=
  ∀ (i : Instr) (s : State), accepted i s = true → s.fault = false →
    (endingAt s 0 = none →
      (isBody i = true → ∀ p, sends i p → exec i s = .fault .transportSilent) ∧
      (i = .beginTx → exec i s = .fault .transportSilent) ∧
      (i = .endTx → (s.profile.hasTs = true → s.ts = .inTransaction) →
        exec i s = .fault .transportSilent) ∧
      (isBody i = true → s.profile.hasTs = true → s.ts = .inTransaction → ∀ e, raises i e →
        exec i s = .fault .transportSilent)) ∧
    (isBody i = true → s.profile.hasTs = true → s.ts = .inTransaction → ∀ p e, sends i p →
      e ≠ .ok → endingAt s 0 = some e → endingAt s 1 = none →
      exec i s = .fault .transportSilent) ∧
    (∀ k, endingAt s k = none ↔ s.profile.transportTimeout = false ∧
      ∃ a, s.answers[k]? = some a ∧ (a.wr = .never ∨ (a.wr = .yes ∧ a.rd = .never))) ∧
    (isBody i = true → s.ts = .idle → s.profile.transportTimeout = true →
      ∀ p a rest, sends i p → s.answers = a :: rest →
      a.wr = .never ∨ (a.wr = .yes ∧ a.rd = .never) →
      ∃ e, e ≠ .ok ∧
        exec i s = .next (outcomeOf s [⟨frameOf p, e⟩] .idle true .transportFailure))

/-- Every `CMD` operation the block has completes, in every state, when the transport answers
(42_transaction_sequencer R122: every case returns), and writes the code it returns to `err`. -/
def Obligations.EveryCommandCompletes : Prop :=
  ∀ (i : Instr) (s : State), isCmd i = true → accepted i s = true → transportAnswers s = true →
    ∃ t c, exec i s = .next t ∧ t.err = c ∧ t.replies = s.replies ++ [.res c]

/-! ### What operations leave alone -/

/-- A `CMD` operation leaves the byte-level encoder, the profile and the pending offers alone, and
adds at most two frames, each well formed, to the end of the history (00_scope R7, 20_memory
R49). -/
def Obligations.CommandFrame : Prop :=
  ∀ (i : Instr) (s t : State), isCmd i = true → exec i s = .next t →
    t.fe = s.fe ∧ t.profile = s.profile ∧ t.offers = s.offers ∧
    ∃ sent, t.txHistory = s.txHistory ++ sent ∧ sent.length ≤ 2 ∧
      (∀ x ∈ sent, wellFormedFrame x.frame = true) ∧
      t.answers = s.answers.drop sent.length ∧ t.draws = s.draws + sent.length

/-- A byte-level operation leaves everything but the encoder, the replies and, for `FE.FIN`, `err`
alone: `TS.state`, `fault`, the history, the transport (00_scope R7(b)). The code `FE.FIN` returns
goes to `err` and out on `RES` (60_exceptions R140); that `FE.PUSH` and `FE.POP` return none and
leave `err` is the model's reading (assumption log, entry 6). -/
def Obligations.ByteLevelFrame : Prop :=
  ∀ (i : Instr) (s t : State), isCmd i = false → exec i s = .next t →
    { t with fe := s.fe, err := s.err, replies := s.replies } = s ∧
    (i = .feFin → t.replies = s.replies ++ [.res t.err]) ∧
    (i ≠ .feFin → t.err = s.err ∧ ∃ r, t.replies = s.replies ++ r ∧ ∀ c, .res c ∉ r)

/-- R31: `fault` is set when any send of an operation fails, and no operation clears it. -/
def Obligations.FaultSetByFailedSend : Prop :=
  ∀ (i : Instr) (s t : State), exec i s = .next t →
    t.fault =
      (s.fault || (t.txHistory.drop s.txHistory.length).any fun x => x.result != SendEnd.ok)

/-- R141: the block never raises `DeviceNotFound`. -/
def Obligations.DeviceNotFoundNeverRaised : Prop :=
  ∀ (i : Instr) (s t : State), exec i s = .next t →
    (s.err ≠ .deviceNotFound → t.err ≠ .deviceNotFound) ∧
    ∀ r ∈ t.replies.drop s.replies.length, r ≠ .res .deviceNotFound

/-! ### Status, reset, and the whole machine -/

/-- R34: the contents of the status registers, `err` as the numbers of R140; a read answers on its
port at any time and changes nothing else. -/
def Obligations.StatusRegisters : Prop :=
  ∀ s : State,
    (s.readStat 0).getLsbD 0 = (s.profile.hasTs && s.ts == .inTransaction) ∧
    (s.readStat 0).getLsbD 1 = s.fault ∧
    (s.readStat 0).getLsbD 2 = (s.fe.phase == .emit) ∧
    (s.readStat 0).getLsbD 3 = s.fe.ovf ∧
    (s.readStat 0).extractLsb' 4 3 = s.err.bits ∧
    (ResultCode.bits .ok).toNat = 0 ∧
    (ResultCode.bits .deviceNotFound).toNat = 1 ∧
    (ResultCode.bits .payloadTooLarge).toNat = 2 ∧
    (ResultCode.bits .valueOutOfRange).toNat = 3 ∧
    (ResultCode.bits .transportFailure).toNat = 4 ∧
    (ResultCode.bits .transactionAlreadyOpen).toNat = 5 ∧
    (ResultCode.bits .transactionNotOpen).toNat = 6 ∧
    (ResultCode.bits .sessionFaulted).toNat = 7 ∧
    (s.readStat 0).toNat < 128 ∧
    (s.readStat 1).toNat = s.fe.plen.toNat ∧
    s.readStat 2 = s.fe.csum ∧
    (s.readStat 3).toNat = s.fe.oidx.toNat ∧
    (∀ n : Byte, 4 ≤ n.toNat → s.readStat n = 0) ∧
    ∀ (n : Byte) (rest : List Offer), s.offers = .stat n :: rest →
      step s = .next { s with offers := rest, replies := s.replies ++ [.stat n (s.readStat n)] }

/-- R160: a reset request puts every register at its reset value from any state and sends nothing;
the history starts again. `FE.pbuf` may hold any bytes. That nothing is sent shows in the answers,
of which none is used: that a reset leaves them is the model's choice (assumption log, entry 11). -/
def Obligations.ResetFromAnyState : Prop :=
  ∀ (s : State) (rest : List Offer), s.offers = .rst :: rest →
    ∃ t, step s = .next t ∧ feEmpty t.fe = true ∧ t.ts = .idle ∧ t.fault = false ∧
      t.err = .ok ∧ t.txHistory = [] ∧ t.answers = s.answers ∧ t.draws = s.draws

/-- R162: after a reset the status registers read 0, `FE.PUSH` and `FE.FIN` are accepted and `OUT`
offers nothing, every `CMD` operation completes, `END` with `TransactionNotOpen`, and an `FE.FIN` at
once gives the empty payload's frame (that `FE.POP` returns no code is the model's reading,
assumption log, entry 6). -/
def Obligations.ReadyAfterReset : Prop :=
  ∀ (s t : State) (rest : List Offer), s.offers = .rst :: rest → step s = .next t →
    (∀ n : Byte, n.toNat < 4 → t.readStat n = 0) ∧
    (∀ b : Byte, ∃ u, exec (.fePush b) t = .next u) ∧
    exec .fePop t = .fault .outputHeld ∧
    (∀ i : Instr, isCmd i = true → accepted i t = true → transportAnswers t = true →
      ∃ u, exec i t = .next u) ∧
    (t.profile.hasTs = true →
      exec .endTx t = .next (outcomeOf t [] .idle false .transactionNotOpen)) ∧
    ∃ f u, encodeFrame [] = .ok f ∧ runAll (.feFin :: List.replicate 64 .fePop) t = .next u ∧
      u.replies = t.replies ++ .res .ok :: popReplies f

/-- The state after reset is sound, with no transaction open, no fault, no error and nothing sent
(10_state R29 to R33, 70_reset R160). -/
def Obligations.ResetIsSound : Prop :=
  Sound State.reset ∧ State.reset.ts = .idle ∧ State.reset.fault = false ∧
    State.reset.err = .ok ∧ State.reset.txHistory = []

/-- Every step keeps the state sound: the buffer canonical, `FE.plen` at most 61, `FE.csum` the sum
of the accepted bytes, `FE.ovf` only with a full buffer in LOAD, no open transaction with `fault`,
`fault` exactly when a send has failed since reset, `err` the last result, and every frame ever
offered well formed (10_state R23 to R32, 42_transaction_sequencer R120, R136). -/
def Obligations.StepKeepsSound : Prop :=
  ∀ s t : State, Sound s → step s = .next t → Sound t

/-- In a sound emitting encoder every frame byte is the byte of `encode` of the accepted payload
(40_frame_encoder R87, R90). -/
def Obligations.EmittedBytesAreTheFrame : Prop :=
  ∀ (fe : FrameEncoder) (i : BitVec 6), FrameEncoderSound fe → fe.phase = .emit →
    ∃ f, encodeFrame (loaded fe) = .ok f ∧ f[i.toNat]? = some (fe.frameByte i)

/-! ### Encoding -/

/-- Decoding the bytes of an operation the port can carry gives the operation back, whatever
follows (30_encoding R70, R71; the operand bytes are the model's serialisation, entry 1). -/
def Obligations.DecodeOfEncode : Prop :=
  ∀ (i : Instr) (rest : List Byte), WellFormed i → decode (encode i ++ rest) = .ok (i, rest)

/-- What is decoded is well formed, and only its own bytes decode to it (30_encoding R70, R71; the
operand bytes are the model's serialisation, entry 1). -/
def Obligations.EncodeOfDecode : Prop :=
  ∀ (bytes rest : List Byte) (i : Instr), decode bytes = .ok (i, rest) →
    WellFormed i ∧ bytes = encode i ++ rest

/-- R152: an unassigned code is not accepted, and neither is an operation of an absent unit. On the
wires nothing of it enters. That a step turned to such an offer is refused and goes no further,
whatever waits behind it, is the model's reading (assumption log, entry 10). -/
def Obligations.UnassignedNotAccepted : Prop :=
  (∀ (op : Byte) (r : List Byte) (s : State) (rest : List Offer),
    op.toNat ∉ [0x00, 0x01, 0x02, 0x06, 0x11, 0x20, 0x21, 0x22, 0x23, 0x24, 0x25, 0x2F, 0x31, 0x80,
      0x81, 0x82] →
    decode (op :: r) = .error (.unassigned op) ∧
    s.offerWires modelSerialisation (op :: r) = s ∧
    (s.offers = .unassigned op :: rest → step s = .refused (.unassignedCode op))) ∧
  ∀ (i : Instr) (s : State), isBuilder i = true → s.profile.hasCb = false →
    exec i s = .refused .builderAbsent

/-- Words written out from R70 decode to the operations they stand for (operand bytes as the
model's serialisation has them, entry 1); and two words of the opcode table are read as the model
reads them (entry 14): `FE.POP`'s code, and the frame bytes `04 00 00` as `SEND_RAW []`, though a
frame does not tell its payload (R67). -/
def Obligations.CodesDecode : Prop :=
  decode [0x01] = .ok (.beginTx, []) ∧
  decode [0x21, 0x03] = .ok (.setBrightness 3, []) ∧
  decode [0x2F, 0x02] = .ok (.setPollingRate 2, []) ∧
  decode [0x80, 0x06] = .ok (.fePush 0x06, []) ∧
  decodeTableWord 24 0x040000 = some (.sendRaw []) ∧
  decodeTableWord 8 0x82 = some .fePop

/-- An operation offered first and not held is carried out by this step: the step is `exec` of it on
the state without the offer; an operation offered alone is, held or not (20_memory R49; the list of
offers is the model's, entry 2; an operation that hangs has its own statement). -/
def Obligations.StepRunsOfferedOperation : Prop :=
  ∀ (s : State) (rest : List Offer) (i : Instr), s.offers = .op i :: rest →
    (heldIn s.fe.phase i = false ∧
      exec i { s with offers := rest } ≠ .fault .transportSilent) ∨ rest = [] →
    step s = exec i { s with offers := rest }

/-- Whatever the serialisation, the operation read from the wires is the one that is carried out, and
bytes that are read as none change nothing; any two serialisations that carry an operation lead to
the same state; and the model's own carries every operation, so that bytes which decode to an
operation are carried out as it (00_scope R5, R8: no rule depends on the serialisation; entry 1 for
the model's own). -/
def Obligations.SerialisationNeverMatters : Prop :=
  (∀ (ser : Config.CmdSerialisation) (wires : List Byte) (i : Instr) (s : State),
    ser.read wires = some i → s.offers = [] → step (s.offerWires ser wires) = exec i s) ∧
  (∀ (ser : Config.CmdSerialisation) (wires : List Byte) (s : State),
    ser.read wires = none → s.offerWires ser wires = s) ∧
  (∀ (ser₁ ser₂ : Config.CmdSerialisation) (i : Instr) (s : State),
    ser₁.read (ser₁.write i) = some i → ser₂.read (ser₂.write i) = some i →
    s.offerWires ser₁ (ser₁.write i) = s.offerWires ser₂ (ser₂.write i)) ∧
  Lawful modelSerialisation ∧
  ∀ (bytes : List Byte) (i : Instr) (s : State), decode bytes = .ok (i, []) → s.offers = [] →
    step (s.offerWires modelSerialisation bytes) = exec i s

/-- While an operation hangs, the block answers status reads, a reset ends it, a byte-level
operation that is not held is carried out, and other operations on `CMD` wait, like byte-level ones
that are held; with nothing else offered there is no step (70_reset R170, 10_state R34; that the
operation stays in the list of offers meanwhile is the model's form, entries 2 and 4). -/
def Obligations.OnlyResetEndsHang : Prop :=
  ∀ (s : State) (rest : List Offer) (i : Instr), s.offers = .op i :: rest →
    exec i { s with offers := rest } = .fault .transportSilent →
    (∀ rest', rest = .rst :: rest' →
      ∃ t, step s = .next t ∧ feEmpty t.fe = true ∧ t.ts = .idle ∧ t.fault = false ∧ t.err = .ok ∧
        t.txHistory = [] ∧ t.offers = rest') ∧
    (∀ n rest', rest = .stat n :: rest' →
      step s = .next { s with
        offers := .op i :: rest', replies := s.replies ++ [.stat n (s.readStat n)] }) ∧
    (∀ j rest', rest = .op j :: rest' → isCmd j = false → heldIn s.fe.phase j = false →
      step s = exec j { s with offers := .op i :: rest' }) ∧
    ((∀ o ∈ rest, ∃ j, o = .op j ∧ (isCmd j = true ∨ heldIn s.fe.phase j = true)) →
      step s = .fault .transportSilent)
end

