-- ==== Sys2Proof/Tests/Slice0.lean ====
section
/-! SUPPORT. The model's own tests: ill-formed terms, words written out from the encodings of the
spec, one small step per operation with the result the spec's vectors give (95_test_vectors), and a
state that meets the hypotheses of each statement. -/

namespace Sys2Proof.Tests

open Sys2Proof Sys2Proof.Machine Sys2Proof.Safety

/-! ### Small states -/

/-- A send that succeeds. -/
def good : Answer := ⟨.yes, .yes, Vector.replicate 64 0xA5⟩
/-- A send whose write fails. -/
def badWrite : Answer := ⟨.no, .yes, Vector.replicate 64 0⟩
/-- A send whose read fails. -/
def badRead : Answer := ⟨.yes, .no, Vector.replicate 64 0⟩
/-- A send the transport never answers. -/
def silent : Answer := ⟨.yes, .never, Vector.replicate 64 0⟩

/-- Profile FULL, Idle, with these answers to come. -/
def idleWith (as : List Answer) : State := { State.reset with answers := as }
/-- Profile FULL, InTransaction, with these answers to come. -/
def openWith (as : List Answer) : State := { State.reset with ts := .inTransaction, answers := as }
/-- A block without the sequencer. -/
def noTs (as : List Answer) : State := { idleWith as with profile := ⟨true, false, false⟩ }
/-- A block without the builders. -/
def noCb : State := { State.reset with profile := ⟨false, true, false⟩ }
/-- The frame encoder after the payload bytes `ps` were pushed. -/
def pushed (ps : Payload) : FrameEncoder := ps.foldl FrameEncoder.push FrameEncoder.reset
/-- A block whose encoder has these registers. -/
def withFe (fe : FrameEncoder) : State := { State.reset with fe := fe }
/-- Six bytes pushed (95_test_vectors B1). -/
def six : State := withFe (pushed [0x06, 0x01, 0x01, 0x00, 0x00, 0x03])
/-- The same block after `FE.FIN`, about to emit frame byte `i`. -/
def emitting (i : BitVec 6) : State := { six with fe := { six.fe with phase := .emit, oidx := i } }
/-- A full buffer. -/
def full : State := withFe (pushed (List.replicate 61 0xFF))
/-- A faulted block. -/
def faulted : State := { State.reset with fault := true }

/-- What an operation offered to the transport, and `ts`, `fault`, `err` after it. -/
def effect (o : Outcome) : Option (List Sent × TsState × Bool × ResultCode) :=
  (nextState? o).map fun t => (t.txHistory, t.ts, t.fault, t.err)

/-- A frame written as its bytes before the padding, with `n` bytes of padding. -/
def padded (bs : List Byte) (n : Nat) : Frame := bs ++ List.replicate n 0

/-- The begin-marker and end-marker frames (95_test_vectors section 5). -/
def m1 : Frame := padded [0x04, 0x01, 0x00, 0x01] 60
def m2 : Frame := padded [0x04, 0x02, 0x00, 0x02] 60

/-! ### Well-formedness (R71): each check refuses an ill-formed term -/

theorem test_wf_sendRaw_refused : Instr.wellFormed (.sendRaw (List.replicate 256 0)) = false := by
  simp only [Instr.wellFormed, portListMax, List.length_replicate]; decide
theorem test_wf_rawSetting_refused :
    Instr.wellFormed (.rawSetting 1 (List.replicate 256 0)) = false := by
  simp only [Instr.wellFormed, portListMax, List.length_replicate]; decide
theorem test_wf_rawKeyRgb_refused :
    Instr.wellFormed (.rawKeyRgb 0 (List.replicate 256 0)) = false := by
  simp only [Instr.wellFormed, portListMax, List.length_replicate]; decide
theorem test_wf_sendRaw_accepted : WellFormed (.sendRaw (List.replicate 255 0)) := by
  simp only [WellFormed, Instr.wellFormed, portListMax, List.length_replicate]; decide

/-! ### Decoding: codes of R70, operands of R71 -/

theorem test_decode_sendRaw :
    decode [0b00000000, 0x02, 0xAA, 0x55] = .ok (.sendRaw [0xAA, 0x55], []) := by decide
theorem test_decode_begin : decode [0b00000001] = .ok (.beginTx, []) := by decide
theorem test_decode_end : decode [0b00000010] = .ok (.endTx, []) := by decide
theorem test_decode_rawSetting :
    decode [0b00000110, 0x01, 0x01, 0x03] = .ok (.rawSetting 1 [3], []) := by decide
theorem test_decode_rawKeyRgb :
    decode [0b00010001, 0x01, 0x2C, 0x01, 0x00, 0x01, 0x02, 0x03]
      = .ok (.rawKeyRgb 300 [0x010203], []) := by decide
theorem test_decode_setMode : decode [0b00100000, 0x21] = .ok (.setMode 0x21, []) := by decide
theorem test_decode_setBrightness :
    decode [0b00100001, 0x03] = .ok (.setBrightness 3, []) := by decide
theorem test_decode_setSpeed : decode [0b00100010, 0x02] = .ok (.setSpeed 2, []) := by decide
theorem test_decode_setDirection :
    decode [0b00100011, 0x00] = .ok (.setDirection false, []) := by decide
theorem test_decode_setColorful :
    decode [0b00100100, 0x01] = .ok (.setColorful true, []) := by decide
theorem test_decode_setColor :
    decode [0b00100101, 0x00, 0x12, 0x34, 0x56] = .ok (.setColor 0x123456, []) := by decide
theorem test_decode_setPollingRate :
    decode [0b00101111, 0x02] = .ok (.setPollingRate 2, []) := by decide
theorem test_decode_setGradient :
    decode [0b00110001, 0x01] = .ok (.setGradient 1, []) := by decide
theorem test_decode_fePush : decode [0b10000000, 0x06] = .ok (.fePush 0x06, []) := by decide
theorem test_decode_feFin : decode [0b10000001] = .ok (.feFin, []) := by decide
theorem test_decode_fePop : decode [0b10000010] = .ok (.fePop, []) := by decide
theorem test_decode_unassigned : decode [0x07, 0x00] = .error (.unassigned 0x07) := by decide
theorem test_decode_bad_bool : decode [0x23, 0x02] = .error (.badOperands 0x23) := by decide

/-- Table words (R74): the setter is tried before `RAW_SETTING`, and a mode past the mask's limit
is still `SET_MODE`'s. -/
theorem test_table_setter : decodeTableWord 48 0x060101000003 = some (.setBrightness 3) := by decide
theorem test_table_rawSetting : decodeTableWord 48 0x060101000004 = some (.rawSetting 1 [4]) := by
  decide
theorem test_table_rawKeyRgb : decodeTableWord 40 0x1103360000 = some (.rawKeyRgb 18 [0]) := by
  decide
theorem test_table_sendRaw : decodeTableWord 24 0x040000 = some (.sendRaw []) := by decide

/-! ### One step per operation, with the vectors' results -/

/-- E4. -/
theorem test_sendRaw : effect (exec (.sendRaw [0xAA, 0x55]) (idleWith [good])) =
    some ([⟨padded [0x04, 0xFF, 0x00, 0xAA, 0x55] 59, .ok⟩], .idle, false, .ok) := by decide
/-- E11, T12. -/
theorem test_sendRaw_oversize :
    effect (exec (.sendRaw (List.replicate 62 0)) (openWith [good])) =
    some ([⟨m2, .ok⟩], .idle, false, .payloadTooLarge) := by decide
/-- T1, and T5. -/
theorem test_begin : effect (exec .beginTx (idleWith [good])) =
    some ([⟨m1, .ok⟩], .inTransaction, false, .ok) := by decide
theorem test_begin_nested_close_fails : effect (exec .beginTx (openWith [badWrite])) =
    some ([⟨m2, .writeFailed⟩], .idle, true, .transportFailure) := by decide
/-- T3, and T7 with a failed read. -/
theorem test_end_idle : effect (exec .endTx (idleWith [])) =
    some ([], .idle, false, .transactionNotOpen) := by decide
theorem test_end_fails : effect (exec .endTx (openWith [badRead])) =
    some ([⟨m2, .readFailed⟩], .idle, true, .transportFailure) := by decide
/-- K32: no range check on the raw path; K35. -/
theorem test_rawSetting : effect (exec (.rawSetting 0 [0x22]) (idleWith [good])) =
    some ([⟨padded [0x04, 0x29, 0x00, 0x06, 0x01, 0x00, 0x00, 0x00, 0x22] 55, .ok⟩],
      .idle, false, .ok) := by decide
theorem test_rawSetting_oversize :
    effect (exec (.rawSetting 9 (List.replicate 57 0)) (idleWith [])) =
    some ([], .idle, false, .payloadTooLarge) := by decide
/-- K42: the offset low byte first; K51: the offset check before the count. -/
theorem test_rawKeyRgb : effect (exec (.rawKeyRgb 100 [0x010203]) (idleWith [good])) =
    some ([⟨padded [0x04, 0x47, 0x00, 0x11, 0x03, 0x2C, 0x01, 0x00, 0x01, 0x02, 0x03] 53, .ok⟩],
      .idle, false, .ok) := by decide
theorem test_rawKeyRgb_order : effect (exec (.rawKeyRgb 30000 (List.replicate 19 1)) (idleWith [])) =
    some ([], .idle, false, .valueOutOfRange) := by decide
/-- K4, K6. -/
theorem test_setMode : effect (exec (.setMode 0x21) (idleWith [good])) =
    some ([⟨padded [0x04, 0x28, 0x00, 0x06, 0x01, 0x00, 0x00, 0x00, 0x21] 55, .ok⟩],
      .idle, false, .ok) := by decide
theorem test_setMode_range : effect (exec (.setMode 0x22) (idleWith [])) =
    some ([], .idle, false, .valueOutOfRange) := by decide
/-- K9 (the source's S2), T9. -/
theorem test_setBrightness : effect (exec (.setBrightness 3) (idleWith [good])) =
    some ([⟨padded [0x04, 0x0B, 0x00, 0x06, 0x01, 0x01, 0x00, 0x00, 0x03] 55, .ok⟩],
      .idle, false, .ok) := by decide
theorem test_setBrightness_range : effect (exec (.setBrightness 4) (openWith [good])) =
    some ([⟨m2, .ok⟩], .idle, false, .valueOutOfRange) := by decide
/-- K11 inside a transaction, K13. -/
theorem test_setSpeed : effect (exec (.setSpeed 1) (openWith [good])) =
    some ([⟨padded [0x04, 0x0A, 0x00, 0x06, 0x01, 0x02, 0x00, 0x00, 0x01] 55, .ok⟩],
      .inTransaction, false, .ok) := by decide
theorem test_setSpeed_range : effect (exec (.setSpeed 4) (idleWith [])) =
    some ([], .idle, false, .valueOutOfRange) := by decide
/-- K15. -/
theorem test_setDirection : effect (exec (.setDirection false) (idleWith [good])) =
    some ([⟨padded [0x04, 0x09, 0x01, 0x06, 0x01, 0x03, 0x00, 0x00, 0xFF] 55, .ok⟩],
      .idle, false, .ok) := by decide
/-- K17. -/
theorem test_setColorful : effect (exec (.setColorful false) (idleWith [good])) =
    some ([⟨padded [0x04, 0x0B, 0x00, 0x06, 0x01, 0x04] 58, .ok⟩], .idle, false, .ok) := by decide
/-- K18 with T13: both sends offered, the first failing; K21. -/
theorem test_setColor_fails : effect (exec (.setColor 0x123456) (openWith [badWrite, good])) =
    some ([⟨padded [0x04, 0xAA, 0x00, 0x06, 0x03, 0x05, 0x00, 0x00, 0x12, 0x34, 0x56] 53,
      .writeFailed⟩, ⟨m2, .ok⟩], .idle, true, .transportFailure) := by decide
theorem test_setColor_range : effect (exec (.setColor 0x1000000) (idleWith [])) =
    some ([], .idle, false, .valueOutOfRange) := by decide
/-- K23, K24. -/
theorem test_setPollingRate : effect (exec (.setPollingRate 2) (idleWith [good])) =
    some ([⟨padded [0x04, 0x18, 0x00, 0x06, 0x01, 0x0F, 0x00, 0x00, 0x02] 55, .ok⟩],
      .idle, false, .ok) := by decide
theorem test_setPollingRate_range : effect (exec (.setPollingRate 4) (idleWith [])) =
    some ([], .idle, false, .valueOutOfRange) := by decide
/-- K25, K26. -/
theorem test_setGradient : effect (exec (.setGradient 1) (idleWith [good])) =
    some ([⟨padded [0x04, 0x19, 0x00, 0x06, 0x01, 0x11, 0x00, 0x00, 0x01] 55, .ok⟩],
      .idle, false, .ok) := by decide
theorem test_setGradient_range : effect (exec (.setGradient 4) (idleWith [])) =
    some ([], .idle, false, .valueOutOfRange) := by decide
/-- B1 step 6, and B2: the 62nd byte is dropped. -/
theorem test_fePush : (six.fe.plen, six.fe.csum, six.fe.pbuf) =
    (6, 0x000B, [(0, 0x06), (1, 0x01), (2, 0x01), (5, 0x03)]) := by decide
set_option maxRecDepth 8000 in
theorem test_fePush_overflow : (nextState? (exec (.fePush 0xFF) full)).map
    (fun t => (t.fe.plen, t.fe.csum, t.fe.ovf)) = some (61, 0x3CC3, true) := by decide
/-- B1 step 7, and B2. -/
theorem test_feFin : (nextState? (exec .feFin six)).map
    (fun t => (t.fe.phase, t.fe.plen, t.fe.oidx, t.replies)) = some (.emit, 6, 0, [.res .ok]) := by
  decide
set_option maxRecDepth 8000 in
theorem test_feFin_oversize :
    (nextState? (exec .feFin { full with fe := { full.fe with ovf := true } })).map
    (fun t => (feEmpty t.fe, t.err, t.replies)) =
      some (true, .payloadTooLarge, [.res .payloadTooLarge]) := by decide
/-- B1 step 9, and step 71. -/
theorem test_fePop : (nextState? (exec .fePop (emitting 1))).map
    (fun t => (t.fe.oidx, t.replies)) = some (2, [.popped 0x0B false false]) := by decide
theorem test_fePop_last : (nextState? (exec .fePop (emitting 63))).map
    (fun t => (feEmpty t.fe, t.replies)) = some (true, [.popped 0x00 false true]) := by decide

/-! ### Ports other than the operations' -/

/-- P2's end state: `STATUS` is 0x60 after `TransactionNotOpen`. -/
theorem test_status : (nextState? (exec .endTx (idleWith []))).map (fun t => t.readStat 0)
    = some 0x60 := by decide
/-- T20: a reset inside a transaction sends nothing. -/
theorem test_reset : effect (step { openWith [good] with offers := [.rst] })
    = some ([], .idle, false, .ok) := by decide
/-- T30: without the sequencer a second `BEGIN` is sent like the first. -/
theorem test_no_sequencer : effect (exec .beginTx (noTs [good]))
    = some ([⟨m1, .ok⟩], .idle, false, .ok) := by decide
/-- R170. -/
theorem test_silent : nextState? (exec (.setMode 1) (idleWith [silent])) = none := by decide
/-- The first operation after reset runs (its send ends as the free value says). -/
theorem test_first_operation :
    (nextState? (step (State.reset.withFetchWord 8 0x01))).isSome = true := by decide

/-- R170: a status read and a reset are taken while the operation hangs; a second operation is
not. -/
theorem test_hang_reset : effect (step { openWith [silent, badWrite] with
    offers := [.op (.setMode 1), .op .endTx, .rst] }) = some ([], .idle, false, .ok) := by decide
theorem test_hang_waits : step { idleWith [silent] with offers := [.op (.setMode 1), .op .beginTx] }
    = .fault .transportSilent := rfl

/-! ### Hypotheses are met: one state or operand for each clause of each statement -/

/-- The longest payload. -/
def longest : Payload := List.replicate 61 0xFF
/-- The shortest payload that is too long. -/
def tooLong : Payload := List.replicate 62 0
/-- A byte-level encoder with this many bytes counted. -/
def counted (n : BitVec 6) (ovf : Bool) : State :=
  withFe { FrameEncoder.reset with plen := n, ovf := ovf }
/-- A colour operand past the range. -/
def badColour : Colour := 0x1000000

theorem witness_EncodeLaysOutFrame : longest.length ≤ 61 ∧ ([] : Payload).length ≤ 61 ∧
    0 < longest.length ∧ 3 + ([] : Payload).length ≤ 63 := by decide
theorem witness_EncodeRefusesOversize : 61 < tooLong.length := by decide
theorem witness_ChecksumIsByteSum : longest.length ≤ 61 := by decide
theorem witness_EncodeProperties :
    (∃ f, encodeFrame [0x01] = .ok f) ∧ (List.replicate 60 (0 : Byte)).length ≤ 60 ∧
    encodeFrame [0x01, 0x02] = encodeFrame [0x01, 0x02] ∧
    ([0x55, 0xAA] : Payload).Perm [0xAA, 0x55] :=
  ⟨⟨_, rfl⟩, by decide, rfl, by decide⟩
theorem witness_FrameReadBack : (longest.length = 61) ∧
    (longest.take 61 = longest ∧ longest.drop 61 = []) := by decide
theorem witness_PushStoresOrOverflows :
    (counted 60 false).fe.phase = .load ∧ (counted 60 false).fe.ovf = false ∧
    (counted 60 false).fe.plen.toNat < 61 ∧ 61 ≤ (counted 61 false).fe.plen.toNat ∧
    (counted 61 true).fe.ovf = true ∧ (counted 61 true).fe.phase = .load := by decide
theorem witness_PushWritesOneByte : six.fe.phase = .load ∧ Memory.wf six.fe.pbuf = true := by decide
theorem witness_FinStartsOrRefuses : six.fe.phase = .load ∧ six.fe.ovf = false ∧
    (counted 61 true).fe.phase = .load ∧ (counted 61 true).fe.ovf = true := by decide
theorem witness_FrameByteByIndex : (2#6).toNat = 2 ∧
    3 ≤ (8#6).toNat ∧ (8#6).toNat < 3 + six.fe.plen.toNat ∧
    3 ≤ (9#6).toNat ∧ 3 + six.fe.plen.toNat ≤ (9#6).toNat := by decide
theorem witness_PopEmitsFrameByte : (emitting 62).fe.phase = .emit ∧
    (emitting 62).fe.oidx.toNat ≠ 63 ∧ (emitting 63).fe.phase = .emit ∧
    (emitting 63).fe.oidx.toNat = 63 := by decide
theorem witness_WrongPhaseIsHeld : (emitting 0).fe.phase = .emit ∧ six.fe.phase = .load := by decide
theorem witness_HeldPushWaitsForPop : (emitting 0).fe.phase = .emit ∧
    ({ emitting 0 with offers := [.op (.fePush 7), .op .fePop, .rst] }).offers
      = .op (.fePush 7) :: .op .fePop :: [.rst] := by decide
theorem witness_ByteLevelRefinesEncode : feEmpty State.reset.fe = true ∧
    Memory.wf State.reset.fe.pbuf = true ∧ longest.length ≤ 255 ∧ longest.length ≤ 61 ∧
    tooLong.length ≤ 255 ∧ 61 < tooLong.length := by decide

/-- The hypotheses the sending statements share: the builders present, no fault, the next send
succeeding. -/
def ready (s : State) : Prop :=
  s.profile.hasCb = true ∧ s.fault = false ∧ endingAt s 0 = some .ok
theorem witness_ready : ready (idleWith [good]) ∧ ready (openWith [good]) ∧
    (idleWith [good]).ts = .idle := by unfold ready; decide

theorem witness_SendRawSendsPayload : ready (openWith [good]) ∧ longest.length ≤ 61 ∧
    (idleWith []).fault = false ∧ 61 < tooLong.length ∧ (idleWith [badRead]).ts = .idle ∧
    endingAt (idleWith [badRead]) 0 = some .readFailed := by unfold ready; decide
set_option maxRecDepth 8000 in
theorem witness_RawSettingSendsHeaderAndData : ready (idleWith [good]) ∧
    (idleWith [good]).ts = .idle ∧ (List.replicate 56 (0 : Byte)).length ≤ 56 ∧
    56 < (List.replicate 57 (0 : Byte)).length := by unfold ready; decide
theorem witness_RawKeyRgbChecksAndSends : ready (idleWith [good]) ∧ (idleWith [good]).ts = .idle ∧
    (∃ c ∈ [0, badColour], 0xFFFFFF < c.toNat) ∧
    (∀ c ∈ List.replicate 18 (0xFFFFFF : Colour), c.toNat ≤ 0xFFFFFF) ∧
    (∀ c ∈ List.replicate 19 (0 : Colour), c.toNat ≤ 0xFFFFFF) ∧
    21845 < (21846#16).toNat ∧ (21845#16).toNat ≤ 21845 ∧
    18 < (List.replicate 19 (0 : Colour)).length ∧
    (List.replicate 18 (0xFFFFFF : Colour)).length ≤ 18 :=
  ⟨by unfold ready; decide, by decide, by simp [badColour], by simp, by simp, by simp⟩
theorem witness_SetModeSends : ready (idleWith [good]) ∧ (idleWith [good]).ts = .idle ∧
    1 ≤ (1#8).toNat ∧ (0x21#8).toNat ≤ 0x21 ∧ (0#8).toNat < 1 ∧ 0x21 < (0x22#8).toNat := by
  unfold ready; decide
theorem witness_SetBrightnessSends : ready (idleWith [good]) ∧ (idleWith [good]).ts = .idle ∧
    (3#8).toNat ≤ 3 ∧ 3 < (4#8).toNat := by unfold ready; decide
theorem witness_SetSpeedSends : ready (idleWith [good]) ∧ (idleWith [good]).ts = .idle ∧
    (3#8).toNat ≤ 3 ∧ 3 < (4#8).toNat := by unfold ready; decide
theorem witness_SetPollingRateSends : ready (idleWith [good]) ∧ (idleWith [good]).ts = .idle ∧
    (3#8).toNat ≤ 3 ∧ 3 < (4#8).toNat := by unfold ready; decide
theorem witness_SetGradientSends : ready (idleWith [good]) ∧ (idleWith [good]).ts = .idle ∧
    (3#8).toNat ≤ 3 ∧ 3 < (4#8).toNat := by unfold ready; decide
theorem witness_SetDirectionSends : ready (openWith [good]) := by unfold ready; decide
theorem witness_SetColorfulSends : ready (openWith [good]) := by unfold ready; decide
theorem witness_SetColorSends : ready (idleWith [good]) ∧ (idleWith [good]).ts = .idle ∧
    (0xFFFFFF#32).toNat ≤ 0xFFFFFF ∧ 0xFFFFFF < badColour.toNat :=
  ⟨by unfold ready; decide, by decide, by simp [badColour]⟩
theorem witness_PseudoOperationsExpand : (idleWith []).profile.hasCb = true ∧
    1 ≤ (0x21#8).toNat ∧ (0x21#8).toNat ≤ 0x21 ∧ (3#8).toNat ≤ 3 ∧
    (0xFFFFFF#32).toNat ≤ 0xFFFFFF ∧ (21845#16).toNat ≤ 21845 ∧
    ([0xFFFFFF] : List Colour).length ≤ 18 ∧
    ∀ c ∈ ([0xFFFFFF] : List Colour), c.toNat ≤ 0xFFFFFF :=
  ⟨by decide, by decide, by decide, by decide, by simp⟩

theorem witness_BeginOpensTransaction : (idleWith [good]).profile.hasTs = true ∧
    (idleWith [good]).ts = .idle ∧ endingAt (idleWith [good]) 0 = some .ok ∧
    endingAt (idleWith [badRead]) 0 = some .readFailed ∧
    (openWith [good]).ts = .inTransaction ∧ endingAt (openWith [good]) 0 = some .ok := by decide
theorem witness_EndClosesTransaction : (openWith [good]).profile.hasTs = true ∧
    (openWith [good]).fault = false ∧ (openWith [good]).ts = .inTransaction ∧
    endingAt (openWith [good]) 0 = some .ok ∧
    endingAt (openWith [badWrite]) 0 = some .writeFailed ∧ (idleWith []).ts = .idle := by decide
theorem witness_NestedBeginCloses : (openWith [good]).profile.hasTs = true ∧
    (openWith [good]).fault = false ∧ (openWith [good]).ts = .inTransaction ∧
    endingAt (openWith [good]) 0 = some .ok := by decide
theorem witness_EndInIdleRefused : (idleWith []).profile.hasTs = true ∧
    (idleWith []).fault = false ∧ (idleWith []).ts = .idle := by decide
theorem witness_FaultedBlockRefuses : isCmd .endTx = true ∧ accepted .endTx faulted = true ∧
    faulted.fault = true ∧ (nextState? (exec (.fePush 1) faulted)).isSome = true ∧
    ({ faulted with offers := [.stat 0] }).fault = true ∧
    ({ faulted with offers := [.stat 0] }).offers = .stat 0 :: [] := by decide
theorem witness_AutoCloseOnError :
    (openWith [good]).profile.hasTs = true ∧ (openWith [good]).ts = .inTransaction ∧
    accepted (.setSpeed 4) (openWith [good]) = true ∧ (openWith [good]).fault = false ∧
    isBody (.setSpeed 4) = true ∧ endingAt (openWith [good]) 0 = some .ok ∧
    raises (.setSpeed 4) .valueOutOfRange ∧ raises (.sendRaw tooLong) .payloadTooLarge ∧
    sends (.setSpeed 3) [6, 1, 2, 0, 0, 3] ∧
    endingAt (openWith [badWrite, good]) 0 = some .writeFailed ∧
    endingAt (openWith [badWrite, good]) 1 = some .ok ∧
    ({ openWith [] with fault := true }).fault = true :=
  ⟨by decide, by decide, by decide, by decide, by decide, by decide, .inl rfl,
    .inr ⟨_, rfl, by decide, rfl⟩, ⟨rfl, by decide⟩, by decide, by decide, by decide⟩
theorem witness_ReleaseFailureWins :
    (openWith [badRead]).profile.hasTs = true ∧ (openWith [badRead]).ts = .inTransaction ∧
    (openWith [badRead]).fault = false ∧ accepted (.setMode 0) (openWith [badRead]) = true ∧
    SendEnd.readFailed ≠ .ok ∧ isBody (.setMode 0) = true ∧
    endingAt (openWith [badRead]) 0 = some .readFailed ∧ raises (.setMode 0) .valueOutOfRange ∧
    sends (.setMode 1) [6, 1, 0, 0, 0, 1] ∧
    endingAt (openWith [badWrite, badRead]) 0 = some .writeFailed ∧
    endingAt (openWith [badWrite, badRead]) 1 = some .readFailed :=
  ⟨by decide, by decide, by decide, by decide, by decide, by decide, by decide, .inl rfl,
    ⟨rfl, by decide⟩, by decide, by decide⟩
theorem witness_BodyCommandSends : isBody (.sendRaw longest) = true ∧
    accepted (.sendRaw longest) noCb = true ∧ noCb.fault = false ∧ sends (.sendRaw longest) longest ∧
    endingAt (idleWith [good]) 0 = some .ok ∧ (idleWith [badRead]).ts = .idle ∧
    raises (.setColor badColour) .valueOutOfRange ∧
    endingAt (idleWith [badRead]) 0 = some .readFailed :=
  ⟨by decide, by decide, by decide, ⟨rfl, by decide⟩, by decide, by decide, .inl rfl, by decide⟩
theorem witness_SuccessfulTransaction :
    (idleWith [good, good, good, good]).profile.hasTs = true ∧
    (idleWith [good, good, good, good]).ts = .idle ∧
    (idleWith [good, good, good, good]).fault = false ∧
    (∀ x ∈ [(Instr.setSpeed 3, ([6, 1, 2, 0, 0, 3] : Payload)), (.sendRaw [], [])],
      isBody x.1 = true ∧ accepted x.1 (idleWith [good, good, good, good]) = true ∧
      build x.1 = some (.ok x.2) ∧ x.2.length ≤ 61) ∧
    ∀ k, k < 4 → endingAt (idleWith [good, good, good, good]) k = some .ok := by decide
theorem witness_FailingBodyReleases :
    (∀ x ∈ [(Instr.setSpeed 3, ([6, 1, 2, 0, 0, 3] : Payload))],
      isBody x.1 = true ∧ accepted x.1 (idleWith [good, good, good]) = true ∧
      build x.1 = some (.ok x.2) ∧ x.2.length ≤ 61) ∧
    isBody (.setSpeed 4) = true ∧ accepted (.setSpeed 4) (idleWith [good, good, good]) = true ∧
    raises (.setSpeed 4) .valueOutOfRange ∧
    ∀ k, k < 3 → endingAt (idleWith [good, good, good]) k = some .ok :=
  ⟨by decide, by decide, by decide, .inl rfl, by decide⟩
theorem witness_WithoutSequencer : (noTs [good]).profile.hasTs = false ∧ isCmd .beginTx = true ∧
    accepted .beginTx (noTs [good]) = true ∧ (noTs [good]).fault = false ∧
    ({ noTs [] with fault := true }).fault = true ∧ sends .beginTx [0x01] ∧ sends .endTx [0x02] ∧
    endingAt (noTs [good]) 0 = some .ok ∧ endingAt (noTs [badWrite]) 0 = some .writeFailed ∧
    raises (.setGradient 4) .valueOutOfRange :=
  ⟨by decide, by decide, by decide, by decide, by decide, ⟨rfl, by decide⟩, ⟨rfl, by decide⟩,
    by decide, by decide, .inl rfl⟩
theorem witness_TransportSendEndings : (idleWith [badWrite, good]).answers = badWrite :: [good] ∧
    badWrite.wr = .no ∧ badRead.wr = .yes ∧ badRead.rd = .no ∧ good.wr = .yes ∧ good.rd = .yes := by
  decide
theorem witness_SilentTransportHangs :
    accepted (.setMode 1) (idleWith [silent]) = true ∧ (idleWith [silent]).fault = false ∧
    endingAt (idleWith [silent]) 0 = none ∧ isBody (.setMode 1) = true ∧
    sends (.setMode 1) [6, 1, 0, 0, 0, 1] ∧ accepted .endTx (openWith [silent]) = true ∧
    (openWith [silent]).fault = false ∧ endingAt (openWith [silent]) 0 = none ∧
    (openWith [silent]).profile.hasTs = true ∧ (openWith [silent]).ts = .inTransaction ∧
    raises (.setMode 0) .valueOutOfRange ∧
    endingAt (openWith [badWrite, silent]) 0 = some .writeFailed ∧
    endingAt (openWith [badWrite, silent]) 1 = none :=
  ⟨by decide, by decide, by decide, by decide, ⟨rfl, by decide⟩, by decide, by decide, by decide,
    by decide, by decide, .inl rfl, by decide, by decide⟩
theorem witness_SilentTransportHangs_timeout :
    ({ idleWith [silent] with profile := ⟨true, true, true⟩ }).profile.transportTimeout = true ∧
    ({ idleWith [silent] with profile := ⟨true, true, true⟩ }).ts = .idle ∧
    ({ idleWith [silent] with profile := ⟨true, true, true⟩ }).fault = false ∧
    accepted (.setMode 1) { idleWith [silent] with profile := ⟨true, true, true⟩ } = true ∧
    ({ idleWith [silent] with profile := ⟨true, true, true⟩ }).answers = silent :: [] ∧
    silent.wr = .yes ∧ silent.rd = .never := by decide
theorem witness_EveryCommandCompletes : isCmd (.setColor badColour) = true ∧
    accepted (.setColor badColour) (openWith [badWrite, good]) = true ∧
    transportAnswers (openWith [badWrite, good]) = true := by decide
theorem witness_CommandFrame : isCmd (.setMode 1) = true ∧
    (nextState? (exec (.setMode 1) (idleWith [good]))).isSome = true := by decide
theorem witness_ByteLevelFrame : isCmd .fePop = false ∧
    (nextState? (exec .fePop (emitting 5))).isSome = true := by decide
theorem witness_FaultSetByFailedSend :
    (nextState? (exec (.setMode 1) (openWith [badWrite, good]))).map (·.fault) = some true := by
  decide
theorem witness_DeviceNotFoundNeverRaised : State.reset.err ≠ .deviceNotFound ∧
    (nextState? (exec .endTx (idleWith []))).isSome = true := by decide
theorem witness_StatusRegisters : 4 ≤ (4#8).toNat ∧ 4 ≤ (255#8).toNat ∧
    ({ faulted with offers := [.stat 0] }).offers = .stat 0 :: [] := by decide
theorem witness_ResetFromAnyState :
    ({ openWith [] with offers := [.rst, .stat 1] }).offers = .rst :: [.stat 1] := by decide
theorem witness_ReadyAfterReset :
    ({ openWith [good] with offers := [.rst] }).offers = .rst :: [] ∧
    (nextState? (step { openWith [good] with offers := [.rst] })).map
      (fun t => (t.profile.hasTs, transportAnswers t, accepted (.setMode 1) t, isCmd (.setMode 1)))
      = some (true, true, true, true) ∧ (3#8).toNat < 4 := by decide
theorem witness_StepKeepsSound : Sound { six with offers := [.op (.fePush 9)] } ∧
    (nextState? (step { six with offers := [.op (.fePush 9)] })).isSome = true :=
  ⟨⟨⟨by decide, by decide, by decide, by decide, by decide⟩,
    ⟨by decide, by decide, by decide, by decide, by simp [six, withFe, State.reset]⟩⟩, by decide⟩
theorem witness_EmittedBytesAreTheFrame : FrameEncoderSound (emitting 8).fe ∧
    (emitting 8).fe.phase = .emit :=
  ⟨⟨by decide, by decide, by decide, by decide, by decide⟩, by decide⟩
theorem witness_DecodeOfEncode : WellFormed (.sendRaw (List.replicate 255 0)) ∧
    WellFormed (.rawKeyRgb 0xFFFF (List.replicate 255 0xFFFFFFFF)) := by
  simp only [WellFormed, Instr.wellFormed, portListMax, List.length_replicate]; decide
theorem witness_EncodeOfDecode : decode [0x23, 0x01, 0x77] = .ok (.setDirection true, [0x77]) := by
  decide
theorem witness_UnassignedNotAccepted : (0x83#8).toNat ∉ [0x00, 0x01, 0x02, 0x06, 0x11, 0x20, 0x21,
      0x22, 0x23, 0x24, 0x25, 0x2F, 0x31, 0x80, 0x81, 0x82] ∧
    ({ State.reset with offers := [.unassigned 0x83] }).offers = .unassigned 0x83 :: [] ∧
    isBuilder (.setGradient 0) = true ∧ noCb.profile.hasCb = false := by decide
theorem witness_StepRunsOfferedOperation :
    ({ six with offers := [.op .feFin, .rst] }).offers = .op .feFin :: [.rst] ∧
    heldIn six.fe.phase .feFin = false ∧
    exec .feFin { six with offers := [.rst] } ≠ .fault .transportSilent :=
  ⟨by decide, by decide, nofun⟩
/-- A serialisation of one byte an operation, which carries `BEGIN` alone. -/
def beginOnly : Config.CmdSerialisation where
  write := fun _ => [0xB0]
  read := fun wires => if wires = [0xB0] then some .beginTx else none
theorem witness_SerialisationNeverMatters : beginOnly.read [0xB0] = some .beginTx ∧
    beginOnly.read [0x00] = none ∧ beginOnly.read (beginOnly.write .beginTx) = some .beginTx ∧
    modelSerialisation.read (modelSerialisation.write .beginTx) = some .beginTx ∧ (idleWith [good]).offers = [] ∧
    modelSerialisation.read [0x21, 0x03] = some (.setBrightness 3) ∧
    decode [0x21, 0x03] = .ok (.setBrightness 3, []) := by decide
theorem witness_OnlyResetEndsHang :
    ({ idleWith [silent] with offers := [.op .beginTx, .rst] }).offers = .op .beginTx :: [.rst] ∧
    exec .beginTx { idleWith [silent] with offers := [.rst] } = .fault .transportSilent ∧
    exec .beginTx { idleWith [silent] with offers := [.stat 0] } = .fault .transportSilent ∧
    exec .beginTx { idleWith [silent] with offers := [.op .feFin, .rst] }
      = .fault .transportSilent ∧
    isCmd .feFin = false ∧ heldIn (idleWith [silent]).fe.phase .feFin = false ∧
    exec .beginTx { idleWith [silent] with offers := [.op .endTx, .op .fePop] }
      = .fault .transportSilent ∧
    isCmd .endTx = true ∧ heldIn (idleWith [silent]).fe.phase .fePop = true :=
  ⟨by decide, rfl, rfl, rfl, by decide, by decide, rfl, by decide, by decide⟩

end Sys2Proof.Tests
end

/-! ### The sum of a payload's bytes -/

namespace Sys2Proof.Safety

@[simp] theorem byteSum_nil : byteSum [] = 0 := rfl

@[simp] theorem byteSum_cons (b : Byte) (p : Payload) :
    byteSum (b :: p) = b.toNat + byteSum p := by
  simp [byteSum]

@[simp] theorem byteSum_append (p q : Payload) : byteSum (p ++ q) = byteSum p + byteSum q := by
  simp [byteSum]

@[simp] theorem byteSum_replicate_zero (n : Nat) : byteSum (List.replicate n 0#8) = 0 := by
  simp [byteSum]

theorem byteSum_le (p : Payload) : byteSum p ≤ 255 * p.length := by
  induction p with
  | nil => simp
  | cons b p ih =>
    have hb : b.toNat < 256 := b.isLt
    simp only [byteSum_cons, List.length_cons]
    omega

end Sys2Proof.Safety

namespace Sys2Proof.Machine

open Sys2Proof.Safety

/-! ### The frames of the frame function -/

/-- The checksum is the sum of the bytes modulo 65536 (R80). -/
theorem checksum_toNat (p : Payload) : (checksum p).toNat = byteSum p % 65536 := by
  induction p using List.reverseRecOn with
  | nil => rfl
  | append_singleton p b ih =>
    simp [checksum_concat, BitVec.toNat_add, BitVec.toNat_setWidth, ih, Nat.add_mod]

/-- The two bytes of `le16`, put together again. -/
theorem le16_bytes_toNat (v : BitVec 16) :
    (v.extractLsb' 0 8).toNat + 256 * (v.extractLsb' 8 8).toNat = v.toNat := by
  have hv : v.toNat < 65536 := v.isLt
  simp only [BitVec.extractLsb'_toNat, Nat.shiftRight_eq_div_pow]
  omega

/-- Every frame of the frame function is well formed (R75, R81). -/
theorem wellFormedFrame_of_encodeFrame {p : Payload} {f : Frame} (h : encodeFrame p = .ok f) :
    wellFormedFrame f = true := by
  rcases Nat.lt_or_ge 61 p.length with hp | hp
  · simp [encodeFrame_of_gt hp] at h
  · rw [encodeFrame_of_le hp] at h
    cases h
    have hsum : byteSum p < 65536 := by have := byteSum_le p; omega
    have hlen : p.length + (61 - p.length) = 61 := by omega
    have hcsum : ((checksum p).extractLsb' 0 8).toNat + 256 * ((checksum p).extractLsb' 8 8).toNat
        = byteSum p := by
      rw [le16_bytes_toNat, checksum_toNat, Nat.mod_eq_of_lt hsum]
    simp [wellFormedFrame, le16, hlen, hcsum, -BitVec.extractLsb'_toNat]

/-! ### What an operation of `CMD` can lead to -/

/-- `t` is `s` after an operation that offered at most `n` frames, each well formed, each ending in
its mark, and completed with some code: nothing but the fields of `outcomeOf` differs, and `fault`
tells of the sends that failed (60_exceptions R150). -/
def CompletesWithin (n : Nat) (s t : State) : Prop :=
  ∃ sent ts code, sent.length ≤ n ∧ (∀ x ∈ sent, wellFormedFrame x.frame = true) ∧
    t = outcomeOf s sent ts (s.fault || sent.any fun x => x.result != SendEnd.ok) code

theorem CompletesWithin.mono {m n : Nat} {s t : State} (h : CompletesWithin m s t) (hmn : m ≤ n) :
    CompletesWithin n s t := by
  obtain ⟨sent, ts, code, hlen, hwf, rfl⟩ := h
  exact ⟨sent, ts, code, hlen.trans hmn, hwf, rfl⟩

theorem completesWithin_setTs_complete (n : Nat) (s : State) (ts : TsState) (code : ResultCode) :
    CompletesWithin n s ((s.setTs ts).complete code) :=
  ⟨[], ts, code, Nat.zero_le n, by simp, by simp [outcomeOf, State.setTs, State.complete]⟩

theorem completesWithin_complete (n : Nat) (s : State) (code : ResultCode) :
    CompletesWithin n s (s.complete code) :=
  completesWithin_setTs_complete n s s.ts code

/-- A frame sent before the rest of the operation is one frame more. -/
theorem CompletesWithin.of_recordSend {n : Nat} {s t : State} {p : Payload} {f : Frame}
    {e : SendEnd} (hf : encodeFrame p = .ok f) (h : CompletesWithin n (s.recordSend f e) t) :
    CompletesWithin (n + 1) s t := by
  obtain ⟨sent, ts, code, hlen, hwf, rfl⟩ := h
  refine ⟨⟨f, e⟩ :: sent, ts, code, by simpa using hlen, ?_, ?_⟩
  · simpa using ⟨wellFormedFrame_of_encodeFrame hf, hwf⟩
  · simp [outcomeOf, State.recordSend, Bool.or_assoc, Nat.add_assoc, Nat.add_comm 1]

/-- So is a payload handed to `SendPayload`, which sends one frame or none. -/
theorem CompletesWithin.of_sendPayload {n : Nat} {s s' t : State} {p : Payload} {r : ResultCode}
    (hs : sendPayload p s = some (r, s')) (h : CompletesWithin n s' t) :
    CompletesWithin (n + 1) s t := by
  rcases sendPayload_some hs with ⟨-, rfl⟩ | ⟨f, e, hf, -, -, rfl⟩
  · exact h.mono (Nat.le_succ n)
  · exact h.of_recordSend hf

theorem autoClose_completesWithin {e : ResultCode} {s t : State} (h : autoClose e s = .next t) :
    CompletesWithin 1 s t := by
  obtain ⟨f, x, hf, -, rfl⟩ := autoClose_next h
  exact (completesWithin_setTs_complete 0 ..).of_recordSend hf

theorem deliver_completesWithin {r : ResultCode} {s t : State} (h : deliver r s = .next t) :
    CompletesWithin 1 s t := by
  rcases deliver_next h with ⟨rfl, -⟩ | ⟨-, -, hc⟩
  · exact completesWithin_complete 1 s r
  · exact autoClose_completesWithin hc

theorem sendBuilt_completesWithin {b : Built} {s t : State} (h : sendBuilt b s = .next t) :
    CompletesWithin 2 s t := by
  rcases sendBuilt_next h with ⟨e, -, hd⟩ | ⟨p, r, s', -, hs, hd⟩
  · exact (deliver_completesWithin hd).mono (by decide)
  · exact (deliver_completesWithin hd).of_sendPayload hs

/-- A faulted block refuses without sending; any other does what it is asked to. -/
theorem unlessFaulted_completesWithin {n : Nat} {s t : State} {run : Outcome}
    (h : unlessFaulted s run = .next t) (hrun : run = .next t → CompletesWithin n s t) :
    CompletesWithin n s t := by
  rcases unlessFaulted_next h with ⟨-, rfl⟩ | ⟨-, hr⟩
  · exact completesWithin_complete n s _
  · exact hrun hr

theorem bodyCommand_completesWithin {b : Built} {s t : State} (h : bodyCommand b s = .next t) :
    CompletesWithin 2 s t :=
  unlessFaulted_completesWithin h sendBuilt_completesWithin

/-- Opening a transaction sends the begin marker and completes (R124). -/
theorem openTransaction_next {s t : State} (h : openTransaction s = .next t) :
    ∃ r s', sendPayload beginMarker s = some (r, s') ∧
      t = (s'.setTs (if r = .ok then .inTransaction else .idle)).complete r := by
  unfold openTransaction at h
  split at h
  next => cases h
  next r s' hs => cases h; exact ⟨r, s', hs, rfl⟩

/-- Closing a transaction sends the end marker and completes (R125). -/
theorem closeTransaction_next {s t : State} (h : closeTransaction s = .next t) :
    ∃ r s', sendPayload endMarker s = some (r, s') ∧ t = (s'.setTs .idle).complete r := by
  unfold closeTransaction at h
  split at h
  next => cases h
  next r s' hs => cases h; exact ⟨r, s', hs, rfl⟩

theorem execBegin_completesWithin {s t : State} (h : execBegin s = .next t) :
    CompletesWithin 2 s t := by
  unfold execBegin at h
  split_ifs at h with hts
  · refine unlessFaulted_completesWithin h fun hrun => ?_
    split at hrun
    next => exact (deliver_completesWithin hrun).mono (by decide)
    next =>
      obtain ⟨r, s', hs, rfl⟩ := openTransaction_next hrun
      exact (completesWithin_setTs_complete 1 ..).of_sendPayload hs
  · exact bodyCommand_completesWithin h

theorem execEnd_completesWithin {s t : State} (h : execEnd s = .next t) :
    CompletesWithin 2 s t := by
  unfold execEnd at h
  split_ifs at h with hts
  · refine unlessFaulted_completesWithin h fun hrun => ?_
    split at hrun
    next => cases hrun; exact completesWithin_complete 2 s _
    next =>
      obtain ⟨r, s', hs, rfl⟩ := closeTransaction_next hrun
      exact (completesWithin_setTs_complete 1 ..).of_sendPayload hs
  · exact bodyCommand_completesWithin h

/-- A body command is its payload, framed, sent and delivered, where its unit is present (R126,
R152). -/
theorem exec_of_isBody {i : Instr} {b : Built} (hi : isBody i = true) (hb : build i = some b)
    (s : State) :
    exec i s = if accepted i s then bodyCommand b s else .refused .builderAbsent := by
  cases i with
  | beginTx | endTx | fePush | feFin | fePop => cases hi
  | sendRaw p =>
    cases hb
    simp [accepted, isBuilder, exec, execSendRaw]
  | rawSetting | rawKeyRgb | setMode | setBrightness | setSpeed | setDirection | setColorful
  | setColor | setPollingRate | setGradient =>
    cases hb
    simp only [accepted, isBuilder, Bool.not_true, Bool.or_false]
    rfl

/-- An operation of `CMD` with a next state is a body command that ran, or `BEGIN`, or `END`
(R126). -/
theorem exec_isCmd_next {i : Instr} {s t : State} (hi : isCmd i = true) (h : exec i s = .next t) :
    (∃ b, build i = some b ∧ bodyCommand b s = .next t) ∨
    (i = .beginTx ∧ execBegin s = .next t) ∨ (i = .endTx ∧ execEnd s = .next t) := by
  by_cases hbody : isBody i = true
  · obtain ⟨b, hb⟩ := Option.isSome_iff_exists.mp hi
    rw [exec_of_isBody hbody hb] at h
    split_ifs at h
    exact .inl ⟨b, hb, h⟩
  · cases i with
    | beginTx => exact .inr (.inl ⟨rfl, h⟩)
    | endTx => exact .inr (.inr ⟨rfl, h⟩)
    | fePush | feFin | fePop => cases hi
    | sendRaw | rawSetting | rawKeyRgb | setMode | setBrightness | setSpeed | setDirection
    | setColorful | setColor | setPollingRate | setGradient => exact absurd rfl hbody

/-- An operation of `CMD` completes after at most two sends: its own and the end marker of an
auto-close (R122, R128). -/
theorem exec_isCmd_completesWithin {i : Instr} {s t : State} (hi : isCmd i = true)
    (h : exec i s = .next t) : CompletesWithin 2 s t := by
  rcases exec_isCmd_next hi h with ⟨b, -, hb⟩ | ⟨-, hb⟩ | ⟨-, he⟩
  · exact bodyCommand_completesWithin hb
  · exact execBegin_completesWithin hb
  · exact execEnd_completesWithin he

/-- Settles O41: the next state is an `outcomeOf` with at most two well-formed frames. -/
theorem commandFrame : Obligations.CommandFrame := by
  unfold Obligations.CommandFrame
  intro i s t hi h
  obtain ⟨sent, ts, code, hlen, hwf, rfl⟩ := exec_isCmd_completesWithin hi h
  exact ⟨rfl, rfl, rfl, sent, rfl, hlen, hwf, rfl, rfl⟩

/-! ### What a byte-level operation can lead to -/

/-- `FE.PUSH` with a next state was in LOAD and pushed (R85, R89). -/
theorem execFePush_next {b : Byte} {s t : State} (h : execFePush b s = .next t) :
    s.fe.phase = .load ∧ t = { s with fe := s.fe.push b } := by
  unfold execFePush at h
  split at h
  next => cases h
  next hp => cases h; exact ⟨hp, rfl⟩

/-- `FE.FIN` with a next state was in LOAD and finished the payload (R86, R89). -/
theorem execFeFin_next {s t : State} (h : execFeFin s = .next t) :
    s.fe.phase = .load ∧ t = { s with fe := s.fe.finish }.complete s.fe.finishCode := by
  unfold execFeFin at h
  split at h
  next => cases h
  next hp => cases h; exact ⟨hp, rfl⟩

/-- `FE.POP` with a next state was in EMIT and popped (R88, R89). -/
theorem execFePop_next {s t : State} (h : execFePop s = .next t) :
    s.fe.phase = .emit ∧
      t = { s with fe := s.fe.pop, replies := s.replies ++ [s.fe.popReply] } := by
  unfold execFePop at h
  split at h
  next => cases h
  next hp => cases h; exact ⟨hp, rfl⟩

/-- The operations that are not on `CMD` are the three of the byte level (R7). -/
theorem isCmd_eq_false_iff {i : Instr} :
    isCmd i = false ↔ (∃ b, i = .fePush b) ∨ i = .feFin ∨ i = .fePop := by
  cases i <;> simp [isCmd, build]

/-- Settles O42: the next states of the three operations name every field they write. -/
theorem byteLevelFrame : Obligations.ByteLevelFrame := by
  unfold Obligations.ByteLevelFrame
  intro i s t hi h
  rcases isCmd_eq_false_iff.mp hi with ⟨b, rfl⟩ | rfl | rfl
  · obtain ⟨-, rfl⟩ := execFePush_next h
    exact ⟨rfl, nofun, fun _ => ⟨rfl, [], by simp, by simp⟩⟩
  · obtain ⟨-, rfl⟩ := execFeFin_next h
    exact ⟨rfl, fun _ => rfl, fun hne => absurd rfl hne⟩
  · obtain ⟨-, rfl⟩ := execFePop_next h
    refine ⟨rfl, nofun, fun _ => ⟨rfl, [s.fe.popReply], rfl, ?_⟩⟩
    simp [FrameEncoder.popReply]

end Sys2Proof.Machine

/-! ### The model's serialisation -/

namespace Sys2Proof

@[simp] theorem readByte_cons (b : Byte) (r : List Byte) : readByte (b :: r) = some (b, r) := rfl

@[simp] theorem readBool_boolByte (b : Bool) (r : List Byte) :
    readBool (boolByte b :: r) = some (b, r) := by
  cases b <;> rfl

@[simp] theorem readHalf_halfBytes (v : BitVec 16) (r : List Byte) :
    readHalf (halfBytes v ++ r) = some (v, r) := by
  have hv : v.extractLsb' 8 8 ++ v.extractLsb' 0 8 = v :=
    (BitVec.extractLsb'_append_extractLsb'_eq_extractLsb' rfl).trans BitVec.extractLsb'_eq_self
  simp [readHalf, halfBytes, hv]

@[simp] theorem readColour_colourBytes (c : Colour) (r : List Byte) :
    readColour (colourBytes c ++ r) = some (c, r) := by
  have hc : c.extractLsb' 24 8 ++ c.extractLsb' 16 8 ++ c.extractLsb' 8 8 ++ c.extractLsb' 0 8
      = c := by
    ext k hk
    grind
  simp [readColour, colourBytes, hc]

/-- Operands written one after another are read back, if each one is. -/
theorem readMany_flatMap {α : Type} {read : List Byte → Option (α × List Byte)}
    {write : α → List Byte} (h : ∀ a r, read (write a ++ r) = some (a, r)) (as : List α)
    (r : List Byte) : readMany read as.length (as.flatMap write ++ r) = some (as, r) := by
  induction as with
  | nil => rfl
  | cons a as ih => simp [readMany, h, ih]

/-- A counted list of operands is read back, if the count fits its byte. -/
theorem readCounted_flatMap {α : Type} {read : List Byte → Option (α × List Byte)}
    {write : α → List Byte} (h : ∀ a r, read (write a ++ r) = some (a, r)) {as : List α}
    (hlen : as.length ≤ portListMax) (r : List Byte) :
    readCounted read (BitVec.ofNat 8 as.length :: (as.flatMap write ++ r)) = some (as, r) := by
  have hn : (BitVec.ofNat 8 as.length).toNat = as.length := by
    simp only [BitVec.toNat_ofNat]; unfold portListMax at hlen; omega
  simp only [readCounted, hn, readMany_flatMap h]

/-- A counted byte string is read back. -/
theorem readCounted_readByte {p : List Byte} (hlen : p.length ≤ portListMax) (r : List Byte) :
    readCounted readByte (BitVec.ofNat 8 p.length :: (p ++ r)) = some (p, r) := by
  have h := readCounted_flatMap (write := fun b => [b]) readByte_cons hlen r
  rwa [List.flatMap_singleton'] at h

/-- The bytes of an operation a port can carry decode to it, whatever follows (R70, R71). -/
theorem decode_encode_append {i : Instr} (hi : WellFormed i) (r : List Byte) :
    decode (encode i ++ r) = .ok (i, r) := by
  cases i with
  | sendRaw p =>
    have hp : p.length ≤ portListMax := of_decide_eq_true hi
    simp [encode, decode, decodeOperands, opcode, operandBytes, withOperands,
      readCounted_readByte hp]
  | rawSetting id d =>
    have hd : d.length ≤ portListMax := of_decide_eq_true hi
    simp [encode, decode, decodeOperands, opcode, operandBytes, withOperands,
      readCounted_readByte hd]
  | rawKeyRgb o cs =>
    have hcs : cs.length ≤ portListMax := of_decide_eq_true hi
    simp [encode, decode, decodeOperands, opcode, operandBytes, withOperands,
      readCounted_flatMap readColour_colourBytes hcs]
  | beginTx | endTx | feFin | fePop => rfl
  | setMode | setBrightness | setSpeed | setPollingRate | setGradient | fePush => rfl
  | setDirection | setColorful | setColor =>
    simp [encode, decode, decodeOperands, opcode, operandBytes, withOperands]

theorem modelSerialisation_read {bytes : List Byte} {i : Instr} (h : decode bytes = .ok (i, [])) :
    modelSerialisation.read bytes = some i := by
  simp [modelSerialisation, h]

/-- The model's own serialisation carries every operation a port can carry. -/
theorem lawful_modelSerialisation : Safety.Lawful modelSerialisation := by
  intro i hi
  have h := decode_encode_append hi []
  rw [List.append_nil] at h
  exact modelSerialisation_read h

namespace Machine

/-- With nothing else offered, an offer that hangs leaves the machine stuck, so taking an offer is
carrying it out. -/
theorem takeOffer_of_offers_nil (o : Offer) {s : State} (hs : s.offers = []) :
    takeOffer o s = carryOut o s := by
  by_cases h : carryOut o s = .fault .transportSilent
  · rw [takeOffer_of_hang h, h]
    simp [besideHang, hs, takeFirst]
  · exact takeOffer_of_ne h

/-- An operation offered alone is carried out, held or not. -/
theorem step_of_op_alone {s : State} {i : Instr} (hs : s.offers = [.op i]) :
    step s = exec i { s with offers := [] } := by
  simp only [step, hs, nextOffer_single]
  exact takeOffer_of_offers_nil (.op i) rfl

/-- An operation read from the wires of a block with nothing else offered is carried out next. -/
theorem step_offerWires {ser : Config.CmdSerialisation} {wires : List Byte} {i : Instr} {s : State}
    (hr : ser.read wires = some i) (hs : s.offers = []) :
    step (s.offerWires ser wires) = exec i s := by
  rw [State.offerWires_of_some hr, hs, List.nil_append, step_of_op_alone rfl, ← hs]

/-- Settles O56: what is read joins the offers, alone there it is the next step, and the model's
own serialisation reads back what it writes. -/
theorem serialisationNeverMatters : Obligations.SerialisationNeverMatters := by
  unfold Obligations.SerialisationNeverMatters
  refine ⟨fun _ _ _ _ => step_offerWires, fun _ _ _ => State.offerWires_of_none, ?_,
    lawful_modelSerialisation, fun _ _ _ hd => step_offerWires (modelSerialisation_read hd)⟩
  intro ser₁ ser₂ i s h₁ h₂
  rw [State.offerWires_of_some h₁, State.offerWires_of_some h₂]

end Machine
end Sys2Proof

namespace Sys2Proof.Machine

open Sys2Proof.Safety

/-! ### The transaction state and the fault bit -/

/-- An open transaction means that the sequencer is there and that no send has failed: the two
clauses of `SessionSound` about `TS.state` as one (10_state R30, 42_transaction_sequencer R136). -/
def TsSound (s : State) : Prop :=
  s.ts = .inTransaction → s.profile.hasTs = true ∧ s.fault = false

theorem tsSound_of_idle {s : State} (h : s.ts = .idle) : TsSound s := by
  simp [TsSound, h]

theorem tsSound_iff {s : State} :
    TsSound s ↔ (s.fault = true → s.ts = .idle) ∧ (s.profile.hasTs = false → s.ts = .idle) := by
  cases hts : s.ts with
  | idle => simp [TsSound, hts]
  | inTransaction => simp [TsSound, hts, and_comm]

/-- `SendPayload` leaves `TS.state` and the profile alone, and, where it returns `OK`, `fault`
(R121). -/
theorem sendPayload_keeps {p : Payload} {s s' : State} {r : ResultCode}
    (h : sendPayload p s = some (r, s')) :
    s'.ts = s.ts ∧ s'.profile = s.profile ∧ (r = .ok → s'.fault = s.fault) := by
  rcases sendPayload_some h with ⟨-, rfl⟩ | ⟨f, e, -, -, rfl, rfl⟩
  · exact ⟨rfl, rfl, fun _ => rfl⟩
  · exact ⟨rfl, rfl, by cases e <;> simp [SendEnd.code]⟩

/-- `OK` may be delivered inside a transaction only without a fault; an error may come with one,
since its delivery closes the transaction (R128). -/
theorem deliver_tsSound {r : ResultCode} {s t : State} (h : deliver r s = .next t)
    (hs : s.ts = .inTransaction → s.profile.hasTs = true ∧ (r = .ok → s.fault = false)) :
    TsSound t := by
  rcases deliver_next h with ⟨rfl, hr⟩ | ⟨-, -, hc⟩
  · intro hts
    obtain ⟨hp, hf⟩ := hs hts
    have hopen : s.transactionOpen = true := by
      simp only [State.complete_ts] at hts
      simp [State.transactionOpen, hp, hts]
    exact ⟨hp, hf (hr hopen)⟩
  · obtain ⟨f, x, -, -, rfl⟩ := autoClose_next hc
    exact tsSound_of_idle rfl

theorem sendBuilt_tsSound {b : Built} {s t : State} (hs : TsSound s) (h : sendBuilt b s = .next t) :
    TsSound t := by
  rcases sendBuilt_next h with ⟨e, -, hd⟩ | ⟨p, r, s', -, hp, hd⟩
  · exact deliver_tsSound hd fun hts => (hs hts).imp_right fun hf _ => hf
  · obtain ⟨hts, hprofile, hfault⟩ := sendPayload_keeps hp
    refine deliver_tsSound hd fun hts' => ?_
    rw [hprofile]
    exact (hs (hts ▸ hts')).imp_right fun hf hr => (hfault hr).trans hf

/-- A faulted block refuses, which leaves `TS.state` alone (R131); what runs otherwise starts without
a fault. -/
theorem unlessFaulted_tsSound {s t : State} {run : Outcome} (hs : TsSound s)
    (h : unlessFaulted s run = .next t) (hrun : s.fault = false → run = .next t → TsSound t) :
    TsSound t := by
  rcases unlessFaulted_next h with ⟨-, rfl⟩ | ⟨hf, hr⟩
  · exact hs
  · exact hrun hf hr

theorem bodyCommand_tsSound {b : Built} {s t : State} (hs : TsSound s)
    (h : bodyCommand b s = .next t) : TsSound t :=
  unlessFaulted_tsSound hs h fun _ => sendBuilt_tsSound hs

theorem execBegin_tsSound {s t : State} (hs : TsSound s) (h : execBegin s = .next t) :
    TsSound t := by
  unfold execBegin at h
  split_ifs at h with hp
  · refine unlessFaulted_tsSound hs h fun hf hrun => ?_
    split at hrun
    next => exact deliver_tsSound hrun fun _ => ⟨hp, fun _ => hf⟩
    next =>
      obtain ⟨r, s', hsend, rfl⟩ := openTransaction_next hrun
      obtain ⟨-, hprofile, hfault⟩ := sendPayload_keeps hsend
      intro hts
      have hr : r = .ok := by
        by_contra hne
        simp [hne] at hts
      exact ⟨hprofile ▸ hp, (hfault hr).trans hf⟩
  · exact bodyCommand_tsSound hs h

theorem execEnd_tsSound {s t : State} (hs : TsSound s) (h : execEnd s = .next t) :
    TsSound t := by
  unfold execEnd at h
  split_ifs at h with hp
  · refine unlessFaulted_tsSound hs h fun _ hrun => ?_
    split at hrun
    next => cases hrun; exact hs
    next =>
      obtain ⟨r, s', -, rfl⟩ := closeTransaction_next hrun
      exact tsSound_of_idle rfl
  · exact bodyCommand_tsSound hs h

/-- No operation of `CMD` leaves a transaction open with a fault, or without the sequencer
(R136). -/
theorem exec_isCmd_tsSound {i : Instr} {s t : State} (hi : isCmd i = true) (hs : TsSound s)
    (h : exec i s = .next t) : TsSound t := by
  rcases exec_isCmd_next hi h with ⟨b, -, hb⟩ | ⟨-, hb⟩ | ⟨-, he⟩
  · exact bodyCommand_tsSound hs hb
  · exact execBegin_tsSound hs hb
  · exact execEnd_tsSound hs he

/-! ### The session: `TS.state`, `fault`, `err` and the history -/

/-- A result code given back is the last one (10_state R32). -/
@[simp] theorem lastResult_concat_res (rs : List Reply) (c : ResultCode) :
    lastResult (rs ++ [.res c]) = c := by
  simp [lastResult]

/-- What `FE.POP` gives back is no result code. -/
@[simp] theorem lastResult_concat_popReply (rs : List Reply) (fe : FrameEncoder) :
    lastResult (rs ++ [fe.popReply]) = lastResult rs := by
  simp [lastResult, FrameEncoder.popReply]

/-- Neither is a status value. -/
@[simp] theorem lastResult_concat_stat (rs : List Reply) (n : Byte) (v : BitVec 16) :
    lastResult (rs ++ [.stat n v]) = lastResult rs := by
  simp [lastResult]

/-- An operation that completes with well-formed frames and the faults of its sends keeps the
session sound, if it does so with the transaction state. -/
theorem CompletesWithin.sessionSound {n : Nat} {s t : State} (hs : SessionSound s)
    (hts : TsSound t) (h : CompletesWithin n s t) : SessionSound t := by
  obtain ⟨hfault, hseq⟩ := tsSound_iff.mp hts
  obtain ⟨sent, ts, code, -, hwf, rfl⟩ := h
  refine ⟨hfault, hseq, ?_, ?_, ?_⟩
  · simp [outcomeOf, hs.faultSticky]
  · simp [outcomeOf]
  · intro x hx
    rcases List.mem_append.mp hx with hx | hx
    · exact hs.framesWellFormed x hx
    · exact hwf x hx

/-! ### The byte-level encoder -/

/-- Counting one byte more does not wrap while there is room. -/
theorem plen_succ_toNat {n : BitVec 6} (h : n.toNat < 61) : (n + 1).toNat = n.toNat + 1 := by
  bv_omega

/-- There are as many accepted bytes as `FE.plen` counts. -/
theorem loaded_length (fe : FrameEncoder) : (loaded fe).length = fe.plen.toNat := by
  simp [loaded]

theorem byteSum_loaded_le {fe : FrameEncoder} (h : fe.plen.toNat ≤ 61) :
    byteSum (loaded fe) ≤ 15555 := by
  have := byteSum_le (loaded fe)
  rw [loaded_length] at this
  omega

/-- A push that stores accepts its byte behind the others (R85). -/
theorem loaded_push {fe : FrameEncoder} (b : Byte) (hm : Memory.wf fe.pbuf = true)
    (ho : fe.ovf = false) (hp : fe.plen.toNat < 61) :
    loaded (fe.push b) = loaded fe ++ [b] := by
  have hbelow : ∀ a ∈ List.range fe.plen.toNat,
      Memory.read (Memory.write fe.pbuf fe.plen.toNat b) a = Memory.read fe.pbuf a := by
    intro a ha
    rw [read_write_wf hm, if_neg (List.mem_range.mp ha).ne]
  rw [push_of_room fe b ho hp]
  simp only [loaded, plen_succ_toNat hp, List.range_succ, List.map_append,
    List.map_congr_left hbelow, List.map_singleton, read_write_wf hm, if_true]

/-- Emptied registers in LOAD are sound, whatever the buffer holds (10_state R29). -/
theorem frameEncoderSound_of_empty {m : Memory} (hm : Memory.wf m = true) :
    FrameEncoderSound
      { pbuf := m, plen := 0, csum := 0, ovf := false, phase := .load, oidx := 0 } :=
  ⟨hm, Nat.zero_le _, rfl, nofun, fun _ => rfl⟩

/-- `FE.PUSH` keeps the registers sound (R85). -/
theorem frameEncoderSound_push {fe : FrameEncoder} (b : Byte) (h : FrameEncoderSound fe)
    (hphase : fe.phase = .load) : FrameEncoderSound (fe.push b) := by
  by_cases hroom : fe.ovf = false ∧ fe.plen.toNat < 61
  · obtain ⟨ho, hp⟩ := hroom
    have hloaded := loaded_push b h.pbufCanonical ho hp
    have hsum := byteSum_loaded_le h.plenBound
    have hcsum := h.csumCurrent
    have hb : b.toNat < 256 := b.isLt
    rw [push_of_room fe b ho hp] at hloaded ⊢
    refine ⟨wf_write h.pbufCanonical hp, ?_, ?_, ?_, h.oidxRest⟩
    · simp only [plen_succ_toNat hp]; omega
    · rw [hloaded]
      simp only [BitVec.toNat_add, BitVec.toNat_setWidth, byteSum_append, byteSum_cons, byteSum_nil]
      omega
    · simp [ho]
  · have hno : fe.ovf = true ∨ 61 ≤ fe.plen.toNat := by
      simpa only [not_and_or, Bool.not_eq_false, not_lt] using hroom
    have hfull : fe.plen.toNat = 61 :=
      hno.elim (fun ho => (h.ovfFull ho).2) fun hp => le_antisymm h.plenBound hp
    rw [push_of_no_room fe b hno]
    exact ⟨h.pbufCanonical, h.plenBound, h.csumCurrent, fun _ => ⟨hphase, hfull⟩, h.oidxRest⟩

/-- `FE.FIN` keeps the registers sound (R86). -/
theorem frameEncoderSound_finish {fe : FrameEncoder} (h : FrameEncoderSound fe)
    (hphase : fe.phase = .load) : FrameEncoderSound fe.finish := by
  cases ho : fe.ovf with
  | true =>
    rw [finish_of_ovf fe ho, hphase, h.oidxRest hphase]
    exact frameEncoderSound_of_empty h.pbufCanonical
  | false =>
    rw [finish_of_fit fe ho]
    exact ⟨h.pbufCanonical, h.plenBound, h.csumCurrent, by simp [ho], fun _ => rfl⟩

/-- `FE.POP` keeps the registers sound (R88): `FE.ovf` is clear in EMIT. -/
theorem frameEncoderSound_pop {fe : FrameEncoder} (h : FrameEncoderSound fe)
    (hphase : fe.phase = .emit) : FrameEncoderSound fe.pop := by
  have ho : fe.ovf = false := by
    by_contra hne
    obtain ⟨hload, -⟩ := h.ovfFull (by simpa using hne)
    simp [hphase] at hload
  by_cases hlast : fe.oidx.toNat = 63
  · rw [pop_of_last fe hlast, ho]
    exact frameEncoderSound_of_empty h.pbufCanonical
  · rw [pop_of_more fe hlast]
    exact ⟨h.pbufCanonical, h.plenBound, h.csumCurrent, h.ovfFull, by simp [hphase]⟩

/-! ### Every step keeps the state sound -/

theorem sound_of_isCmd {i : Instr} {s t : State} (hs : Sound s) (hi : isCmd i = true)
    (h : exec i s = .next t) : Sound t := by
  have hts : TsSound t :=
    exec_isCmd_tsSound hi (tsSound_iff.mpr ⟨hs.session.faultClosed, hs.session.sequencerAbsent⟩) h
  have hc := exec_isCmd_completesWithin hi h
  refine ⟨?_, hc.sessionSound hs.session hts⟩
  obtain ⟨sent, ts, code, -, -, rfl⟩ := hc
  exact hs.frameEncoder

theorem sound_of_not_isCmd {i : Instr} {s t : State} (hs : Sound s) (hi : isCmd i = false)
    (h : exec i s = .next t) : Sound t := by
  obtain ⟨hfe, hclosed, hseq, hfault, herr, hframes⟩ := hs
  rcases isCmd_eq_false_iff.mp hi with ⟨b, rfl⟩ | rfl | rfl
  · obtain ⟨hphase, rfl⟩ := execFePush_next h
    exact ⟨frameEncoderSound_push b hfe hphase, hclosed, hseq, hfault, herr, hframes⟩
  · obtain ⟨hphase, rfl⟩ := execFeFin_next h
    exact ⟨frameEncoderSound_finish hfe hphase, hclosed, hseq, hfault, by simp, hframes⟩
  · obtain ⟨hphase, rfl⟩ := execFePop_next h
    exact ⟨frameEncoderSound_pop hfe hphase, hclosed, hseq, hfault, by simpa using herr, hframes⟩

/-- Every operation keeps the state sound. -/
theorem exec_sound {i : Instr} {s t : State} (hs : Sound s) (h : exec i s = .next t) : Sound t := by
  cases hi : isCmd i with
  | true => exact sound_of_isCmd hs hi h
  | false => exact sound_of_not_isCmd hs hi h

/-- A reset makes any state sound (70_reset R160). -/
theorem afterReset_sound (s : State) : Sound s.afterReset :=
  ⟨frameEncoderSound_of_empty wf_reset, nofun, fun _ => rfl, rfl, rfl, nofun⟩

theorem answerStat_sound {s : State} (hs : Sound s) (n : Byte) : Sound (answerStat n s) := by
  obtain ⟨hfe, hclosed, hseq, hfault, herr, hframes⟩ := hs
  exact ⟨hfe, hclosed, hseq, hfault, by simpa using herr, hframes⟩

/-- Soundness does not look at what is offered. -/
theorem sound_withOffers {s : State} (hs : Sound s) (os : List Offer) :
    Sound { s with offers := os } := by
  obtain ⟨hfe, hclosed, hseq, hfault, herr, hframes⟩ := hs
  exact ⟨hfe, hclosed, hseq, hfault, herr, hframes⟩

/-- Settles O49: a step waits, resets, answers a status read or carries out an operation, and each
keeps the state sound. -/
theorem stepKeepsSound : Obligations.StepKeepsSound := by
  unfold Obligations.StepKeepsSound
  intro s t hs h
  rcases step_next h with ⟨-, rfl⟩ | ⟨rest, ⟨as, d, rfl⟩ | ⟨n, rfl⟩ | ⟨i, hi⟩⟩
  · exact hs
  · exact afterReset_sound _
  · exact answerStat_sound (sound_withOffers hs rest) n
  · exact exec_sound (sound_withOffers hs rest) hi

/-- Settles O43: a `CMD` operation adds the frames it sent to the history and their failures to
`fault`; a byte-level one touches neither. -/
theorem faultSetByFailedSend : Obligations.FaultSetByFailedSend := by
  unfold Obligations.FaultSetByFailedSend
  intro i s t h
  cases hi : isCmd i with
  | true =>
    obtain ⟨sent, ts, code, -, -, rfl⟩ := exec_isCmd_completesWithin hi h
    simp [outcomeOf]
  | false =>
    obtain ⟨hframe, -⟩ := byteLevelFrame i s t hi h
    have hfault : t.fault = s.fault := congrArg (·.fault) hframe
    have hhistory : t.txHistory = s.txHistory := congrArg (·.txHistory) hframe
    simp [hfault, hhistory]

/-! ### The status registers -/

@[simp] theorem readStat_status (s : State) : s.readStat 0#8 = s.status.setWidth 16 := rfl

theorem readStat_plen_toNat (s : State) : (s.readStat 1).toNat = s.fe.plen.toNat :=
  BitVec.toNat_setWidth_of_le (by decide)

theorem readStat_csum (s : State) : s.readStat 2 = s.fe.csum := rfl

theorem readStat_oidx_toNat (s : State) : (s.readStat 3).toNat = s.fe.oidx.toNat :=
  BitVec.toNat_setWidth_of_le (by decide)

/-- The reserved numbers read as 0 (R34). -/
theorem readStat_of_reserved (s : State) {n : Byte} (h : 4 ≤ n.toNat) : s.readStat n = 0 := by
  unfold State.readStat
  split
  case h_5 => rfl
  all_goals omega

@[simp] theorem tsBit_getElem_zero (s : State) : s.tsBit[0] = s.transactionOpen := by
  cases hp : s.profile.hasTs <;> cases hts : s.ts <;>
    simp [State.tsBit, State.transactionOpen, TsState.bit, hp, hts]

@[simp] theorem Phase.bit_getElem_zero (p : Phase) : p.bit[0] = (p == .emit) := by
  cases p <;> rfl

/-- The bits of `STATUS`, from bit 0 on (R34); the three of `err` come last, and no more follow. -/
theorem status_getLsbD (s : State) (k : Nat) :
    s.status.getLsbD k =
      match k with
      | 0 => s.transactionOpen
      | 1 => s.fault
      | 2 => s.fe.phase == .emit
      | 3 => s.fe.ovf
      | k + 4 => s.err.bits.getLsbD k := by
  have happend : s.status.getLsbD k = BitVec.getLsbD (w := 1 + 3 + 1 + 1 + 1 + 1)
      (0#1 ++ s.err.bits ++ BitVec.ofBool s.fe.ovf ++ s.fe.phase.bit ++ BitVec.ofBool s.fault
        ++ s.tsBit) k := rfl
  rw [happend]
  simp only [BitVec.getLsbD_append]
  match k with
  | 0 | 1 | 2 | 3 => simp
  | k + 4 =>
    rcases Nat.lt_or_ge k 3 with hk | hk
    · simp [hk]
    · simp [hk, BitVec.getLsbD_of_ge]

/-- Bit 7 of `STATUS` is 0 (R34). -/
theorem status_toNat_lt (s : State) : s.status.toNat < 128 := by
  refine BitVec.toNat_lt_of_msb_false ?_
  rw [BitVec.msb_eq_getLsbD_last, status_getLsbD]
  exact BitVec.getLsbD_of_ge _ _ (Nat.le_refl 3)

/-- An offer at the head that is neither held nor hangs is carried out. -/
theorem step_of_head {s : State} {o : Offer} {rest : List Offer} (hs : s.offers = o :: rest)
    (hheld : o.heldIn s.fe.phase = false)
    (hhang : carryOut o { s with offers := rest } ≠ .fault .transportSilent) :
    step s = carryOut o { s with offers := rest } := by
  simp only [step, hs, nextOffer_head rest hheld]
  exact takeOffer_of_ne hhang

/-- Settles O45: the bits of `STATUS` in turn, the other registers, and a status read as the next
step. -/
theorem statusRegisters : Obligations.StatusRegisters := by
  unfold Obligations.StatusRegisters
  intro s
  refine ⟨?_, ?_, ?_, ?_, ?_, rfl, rfl, rfl, rfl, rfl, rfl, rfl, rfl, ?_,
    readStat_plen_toNat s, readStat_csum s, readStat_oidx_toNat s,
    fun _ => readStat_of_reserved s, fun _ _ hs => step_of_head hs rfl nofun⟩
  · exact status_getLsbD s 0
  · exact status_getLsbD s 1
  · exact status_getLsbD s 2
  · exact status_getLsbD s 3
  · ext k hk
    have hbit : s.status.getLsbD (k + 4) = s.err.bits[k] :=
      (status_getLsbD s (k + 4)).trans (BitVec.getLsbD_eq_getElem hk)
    have hwidth : k + 4 < 16 := by omega
    simpa [hwidth, Nat.add_comm 4 k] using hbit
  · exact (BitVec.toNat_setWidth_of_le (by decide)).trans_lt (status_toNat_lt s)

end Sys2Proof.Machine

/-! ### What a push does to the buffer -/

namespace Sys2Proof.Machine

/-- In LOAD, `FE.PUSH` completes (R85, R89). -/
theorem exec_fePush_of_load (b : Byte) {s : State} (hload : s.fe.phase = .load) :
    exec (.fePush b) s = .next { s with fe := s.fe.push b } := by
  have hexec : exec (.fePush b) s = execFePush b s := rfl
  rw [hexec, execFePush, hload]

/-- The buffer is written only by a push that finds room (R85). -/
theorem push_pbuf (fe : FrameEncoder) (b : Byte) :
    (fe.push b).pbuf =
      if fe.ovf = false ∧ fe.plen.toNat < 61 then Memory.write fe.pbuf fe.plen.toNat b
      else fe.pbuf :=
  apply_ite FrameEncoder.pbuf _ _ _

/-- A push keeps the buffer canonical (20_memory R50): it stores below the buffer's end. -/
theorem wf_push {fe : FrameEncoder} (b : Byte) (hm : Memory.wf fe.pbuf = true) :
    Memory.wf (fe.push b).pbuf = true := by
  rw [push_pbuf]
  split_ifs with hroom
  · exact wf_write hm hroom.2
  · exact hm

/-- After a push the buffer differs at most at `FE.plen`, where there was room (R85). -/
theorem read_push {fe : FrameEncoder} (b : Byte) (hm : Memory.wf fe.pbuf = true) (a : Nat) :
    Memory.read (fe.push b).pbuf a =
      if fe.ovf = false ∧ fe.plen.toNat < 61 ∧ a = fe.plen.toNat then b
      else Memory.read fe.pbuf a := by
  rw [push_pbuf]
  by_cases hroom : fe.ovf = false ∧ fe.plen.toNat < 61
  · rw [if_pos hroom, read_write_wf hm]
    simp [hroom]
  · rw [if_neg hroom, if_neg fun ⟨ho, hp, _⟩ => hroom ⟨ho, hp⟩]

/-- Settles O7: in LOAD the push completes, and its one write to the buffer is at `FE.plen`. -/
theorem pushWritesOneByte : Obligations.PushWritesOneByte := by
  unfold Obligations.PushWritesOneByte
  intro b s hload hm
  exact ⟨_, exec_fePush_of_load b hload, wf_push b hm, read_push b hm⟩

end Sys2Proof.Machine

/-! ### What the model's serialisation reads is what it writes -/

namespace Sys2Proof

/-- Settles O51: each operand reader gives back what its writer wrote, with a count that fits. -/
theorem decodeOfEncode : Obligations.DecodeOfEncode := by
  unfold Obligations.DecodeOfEncode
  exact fun _ rest hi => decode_encode_append hi rest

variable {bs r : List Byte}

theorem eq_of_readByte {b : Byte} (h : readByte bs = some (b, r)) : bs = b :: r := by
  cases bs with
  | nil => cases h
  | cons => cases h; rfl

theorem eq_of_readBool {b : Bool} (h : readBool bs = some (b, r)) : bs = boolByte b :: r := by
  cases bs with
  | nil => cases h
  | cons x bs =>
    simp only [readBool] at h
    split_ifs at h with h₁ h₀
    · cases h; rw [h₁]; rfl
    · cases h; rw [h₀]; rfl

theorem halfBytes_append (b₁ b₀ : Byte) : halfBytes (b₁ ++ b₀) = [b₁, b₀] := by
  simp only [halfBytes, List.cons.injEq, and_true]
  constructor <;> (ext k hk; grind)

theorem colourBytes_append (b₃ b₂ b₁ b₀ : Byte) :
    colourBytes (b₃ ++ b₂ ++ b₁ ++ b₀) = [b₃, b₂, b₁, b₀] := by
  simp only [colourBytes, List.cons.injEq, and_true]
  refine ⟨?_, ?_, ?_, ?_⟩ <;> (ext k hk; grind)

theorem eq_of_readHalf {v : BitVec 16} (h : readHalf bs = some (v, r)) :
    bs = halfBytes v ++ r := by
  unfold readHalf at h
  split at h
  next => cases h; rw [halfBytes_append]; rfl
  next => cases h

theorem eq_of_readColour {c : Colour} (h : readColour bs = some (c, r)) :
    bs = colourBytes c ++ r := by
  unfold readColour at h
  split at h
  next => cases h; rw [colourBytes_append]; rfl
  next => cases h

/-- As many operands as asked for are read, and their bytes stood there, if that holds of one. -/
theorem eq_of_readMany {α : Type} {read : List Byte → Option (α × List Byte)}
    {write : α → List Byte} (hread : ∀ {bs a r}, read bs = some (a, r) → bs = write a ++ r) {n : Nat}
    {as : List α} (h : readMany read n bs = some (as, r)) :
    as.length = n ∧ bs = as.flatMap write ++ r := by
  induction n generalizing bs as with
  | zero => cases h; exact ⟨rfl, rfl⟩
  | succ n ih =>
    simp only [readMany] at h
    split at h
    next => cases h
    next a r₁ ha =>
      split at h
      next => cases h
      next as' r₂ has =>
        cases h
        obtain ⟨hlen, hr₁⟩ := ih has
        exact ⟨by simp [hlen], by simp [hread ha, hr₁]⟩

/-- A counted list that is read is no longer than its byte can count, and its bytes stood there. -/
theorem eq_of_readCounted {α : Type} {read : List Byte → Option (α × List Byte)}
    {write : α → List Byte} (hread : ∀ {bs a r}, read bs = some (a, r) → bs = write a ++ r)
    {as : List α} (h : readCounted read bs = some (as, r)) :
    as.length ≤ portListMax ∧ bs = BitVec.ofNat 8 as.length :: (as.flatMap write ++ r) := by
  cases bs with
  | nil => cases h
  | cons n bs =>
    obtain ⟨hlen, rfl⟩ := eq_of_readMany hread h
    have hn : n.toNat < 256 := n.isLt
    exact ⟨by unfold portListMax; omega, by simp [hlen]⟩

theorem eq_of_readCounted_readByte {p : List Byte} (h : readCounted readByte bs = some (p, r)) :
    p.length ≤ portListMax ∧ bs = BitVec.ofNat 8 p.length :: (p ++ r) := by
  simpa using eq_of_readCounted (write := fun b => [b]) eq_of_readByte h

/-- An operation is made only from operands that were read. -/
theorem withOperands_ok {α : Type} {op : Byte} {make : α → Instr} {x : Option (α × List Byte)}
    {i : Instr} (h : withOperands op make x = .ok (i, r)) : ∃ a, x = some (a, r) ∧ i = make a := by
  unfold withOperands at h
  split at h
  next a _ => cases h; exact ⟨a, rfl, rfl⟩
  next => cases h

/-- An operation read behind a code has that code, can be carried by a port, and its operand bytes
stood there (R70, R71). -/
theorem decodeOperands_ok {op : Byte} {i : Instr} (h : decodeOperands op bs = .ok (i, r)) :
    op = opcode i ∧ WellFormed i ∧ bs = operandBytes i ++ r := by
  unfold decodeOperands at h
  split at h
  -- no operand: BEGIN, END, FE.FIN, FE.POP
  case h_2 hop | h_3 hop | h_15 hop | h_16 hop =>
    cases h
    exact ⟨BitVec.eq_of_toNat_eq hop, rfl, rfl⟩
  -- one byte: the setters of a mode, level, speed or rate, and FE.PUSH
  case h_6 hop | h_7 hop | h_8 hop | h_12 hop | h_13 hop | h_14 hop =>
    obtain ⟨v, hv, rfl⟩ := withOperands_ok h
    exact ⟨BitVec.eq_of_toNat_eq hop, rfl, eq_of_readByte hv⟩
  -- a Boolean: SET_DIRECTION, SET_COLORFUL
  case h_9 hop | h_10 hop =>
    obtain ⟨b, hb, rfl⟩ := withOperands_ok h
    exact ⟨BitVec.eq_of_toNat_eq hop, rfl, eq_of_readBool hb⟩
  -- SET_COLOR
  case h_11 hop =>
    obtain ⟨c, hc, rfl⟩ := withOperands_ok h
    exact ⟨BitVec.eq_of_toNat_eq hop, rfl, eq_of_readColour hc⟩
  -- SEND_RAW
  case h_1 hop =>
    obtain ⟨p, hp, rfl⟩ := withOperands_ok h
    obtain ⟨hlen, hbs⟩ := eq_of_readCounted_readByte hp
    exact ⟨BitVec.eq_of_toNat_eq hop, decide_eq_true hlen, hbs⟩
  -- RAW_SETTING
  case h_4 hop =>
    split at h
    next id bs =>
      obtain ⟨d, hd, rfl⟩ := withOperands_ok h
      obtain ⟨hlen, rfl⟩ := eq_of_readCounted_readByte hd
      exact ⟨BitVec.eq_of_toNat_eq hop, decide_eq_true hlen, rfl⟩
    next => cases h
  -- RAW_KEY_RGB
  case h_5 hop =>
    split at h
    next o bs ho =>
      obtain ⟨cs, hcs, rfl⟩ := withOperands_ok h
      obtain ⟨hlen, rfl⟩ := eq_of_readCounted eq_of_readColour hcs
      refine ⟨BitVec.eq_of_toNat_eq hop, decide_eq_true hlen, ?_⟩
      simp [eq_of_readHalf ho, operandBytes]
    next => cases h
  -- an unassigned code
  case h_17 => cases h

/-- Settles O52: each operand reader takes exactly the bytes its writer writes, and a count of one
byte is at most 255. -/
theorem encodeOfDecode : Obligations.EncodeOfDecode := by
  unfold Obligations.EncodeOfDecode
  intro bytes rest i h
  cases bytes with
  | nil => cases h
  | cons op bs =>
    obtain ⟨rfl, hwf, rfl⟩ := decodeOperands_ok h
    exact ⟨hwf, rfl⟩

end Sys2Proof

namespace Sys2Proof.Safety

/-- Zeros at the end of a payload add nothing to its sum. -/
theorem byteSum_take_of_drop_eq_zero {p : Payload} {n : Nat} (h : ∀ b ∈ p.drop n, b = 0) :
    byteSum (p.take n) = byteSum p := by
  have hz : byteSum (p.drop n) = 0 := by
    rw [List.eq_replicate_of_mem h]
    exact byteSum_replicate_zero _
  calc byteSum (p.take n) = byteSum (p.take n) + byteSum (p.drop n) := by rw [hz, Nat.add_zero]
    _ = byteSum p := by rw [← byteSum_append, List.take_append_drop]

/-- The reduced test on the parts of a 64-byte string (R75). -/
theorem wellFormedFrame_iff {rtype lo hi : Byte} {body : List Byte} (hlen : body.length = 61) :
    wellFormedFrame (rtype :: lo :: hi :: body) = true ↔
      rtype = 0x04 ∧ lo.toNat + 256 * hi.toNat = byteSum body := by
  simp [wellFormedFrame, hlen]

/-- Settles O5: the zeros after a payload add nothing to the sum, and length 61 leaves nothing
after it. -/
theorem frameReadBack : Obligations.FrameReadBack := by
  unfold Obligations.FrameReadBack
  intro rtype lo hi body hlen
  rw [wellFormedFrame_iff hlen]
  refine and_congr_right fun _ => ⟨?_, fun hsum => ⟨61, le_rfl, ?_, ?_⟩⟩
  · rintro ⟨n, -, hzero, hsum⟩
    rw [hsum, byteSum_take_of_drop_eq_zero hzero]
  · simp [List.drop_of_length_le hlen.le]
  · rw [List.take_of_length_le hlen.le, hsum]

end Sys2Proof.Safety

namespace Sys2Proof.Machine

open Sys2Proof.Safety

/-! ### Operations that stand for others -/

/-- Body commands that build the same payload and whose units are both present or both absent have
the same outcome. -/
theorem exec_eq_of_build_eq {i j : Instr} {b : Built} {s : State} (hi : isBody i = true)
    (hj : isBody j = true) (hbi : build i = some b) (hbj : build j = some b)
    (hacc : accepted i s = accepted j s) : exec i s = exec j s := by
  rw [exec_of_isBody hi hbi, exec_of_isBody hj hbj, hacc]

/-- A builder operation that builds a setting payload does what the `RAW_SETTING` of it does. -/
theorem exec_eq_rawSetting {i : Instr} {id : Byte} {d : List Byte} (hi : isBuilder i = true)
    (hb : build i = some (.ok (rawSetting id d))) (s : State) :
    exec i s = exec (.rawSetting id d) s :=
  exec_eq_of_build_eq (by simp [isBody, hi]) rfl hb rfl (congrArg (_ || !·) hi)

/-- With the builders present, a builder operation that builds a payload does what `SEND_RAW` of it
does. -/
theorem exec_eq_sendRaw {i : Instr} {p : Payload} {s : State} (hcb : s.profile.hasCb = true)
    (hi : isBuilder i = true) (hb : build i = some (.ok p)) : exec i s = exec (.sendRaw p) s :=
  exec_eq_of_build_eq (by simp [isBody, hi]) rfl hb rfl (by simp [accepted, hcb])

theorem checkedSetting_of_inRange {inRange : Bool} (id : Byte) (d : List Byte)
    (h : inRange = true) : checkedSetting inRange id d = .ok (rawSetting id d) := by
  simp [checkedSetting, h]

/-- A setter whose check holds does what the `RAW_SETTING` it stands for does (R73). -/
theorem exec_eq_rawSetting_of_inRange {i : Instr} {inRange : Bool} {id : Byte} {d : List Byte}
    (hi : isBuilder i = true) (hb : build i = some (checkedSetting inRange id d))
    (h : inRange = true) (s : State) : exec i s = exec (.rawSetting id d) s :=
  exec_eq_rawSetting hi (by rw [hb, checkedSetting_of_inRange id d h]) s

/-- Legal operands pass the checks of `RAW_KEY_RGB` (R101). -/
theorem buildRawKeyRgb_of_legal {o : BitVec 16} {cs : List Colour} (ho : o.toNat ≤ 21845)
    (hlen : cs.length ≤ 18) (hcs : ∀ c ∈ cs, c.toNat ≤ 0xFFFFFF) :
    buildRawKeyRgb o cs = .ok (rawKeyRgb o cs) := by
  have hall : cs.all colourInRange = true := List.all_eq_true.mpr fun c hc =>
    decide_eq_true (hcs c hc)
  simp [buildRawKeyRgb, hall, ho.not_gt, hlen.not_gt]

/-- Settles O25: each operation builds, on legal operands, the payload of what it stands for. -/
theorem pseudoOperationsExpand : Obligations.PseudoOperationsExpand := by
  unfold Obligations.PseudoOperationsExpand
  intro s
  refine ⟨fun m hmin hmax => ?mode, fun v hv => ?level, fun b => ?flag, fun c hc => ?colour,
    fun hcb id d => ?rawSetting, fun hcb o cs ho hlen hcs => ?rawKeyRgb⟩
  case mode =>
    exact exec_eq_rawSetting_of_inRange rfl rfl (by simp [hmin, hmax]) s
  case level =>
    have hv : levelInRange v = true := decide_eq_true hv
    exact ⟨exec_eq_rawSetting_of_inRange rfl rfl hv s, exec_eq_rawSetting_of_inRange rfl rfl hv s,
      exec_eq_rawSetting_of_inRange rfl rfl hv s, exec_eq_rawSetting_of_inRange rfl rfl hv s⟩
  case flag => exact ⟨exec_eq_rawSetting rfl rfl s, exec_eq_rawSetting rfl rfl s⟩
  case colour =>
    exact exec_eq_rawSetting_of_inRange rfl rfl (decide_eq_true hc) s
  case rawSetting => exact exec_eq_sendRaw hcb rfl rfl
  case rawKeyRgb =>
    exact exec_eq_sendRaw hcb rfl (congrArg some (buildRawKeyRgb_of_legal ho hlen hcs))

end Sys2Proof.Machine

/-! ### Where the bytes of a frame stand -/

namespace Sys2Proof.Machine

open Sys2Proof.Safety

section
variable {p : Payload}

/-- What follows the header of a payload's frame: the payload, then zeros (R81). -/
def frameBody (p : Payload) : List Byte := p ++ List.replicate (61 - p.length) 0

theorem frameBody_length (h : p.length ≤ 61) : (frameBody p).length = 61 := by
  simp [frameBody]; omega

theorem frameBody_getElem?_of_lt {i : Nat} (h : i < p.length) : (frameBody p)[i]? = p[i]? :=
  List.getElem?_append_left h

theorem frameBody_getElem?_of_ge {i : Nat} (h : p.length ≤ i) (hi : i < 61) :
    (frameBody p)[i]? = some 0 := by
  rw [frameBody, List.getElem?_append_right h, List.getElem?_replicate_of_lt (by omega)]

theorem frameBody_drop_length (p : Payload) :
    (frameBody p).drop p.length = List.replicate (61 - p.length) 0 :=
  List.drop_left

@[simp] theorem byteSum_frameBody (p : Payload) : byteSum (frameBody p) = byteSum p := by
  simp [frameBody]

/-- A zero byte behind a payload with room is one of the zeros that would stand there (R91 (f)). -/
theorem frameBody_concat_zero (h : p.length ≤ 60) : frameBody (p ++ [0]) = frameBody p := by
  have hpad : 61 - p.length = (60 - p.length) + 1 := by omega
  simp [frameBody, hpad, List.replicate_succ]

theorem frameBody_inj {q : Payload} (hlen : p.length = q.length)
    (h : frameBody p = frameBody q) : p = q :=
  List.append_inj_left h hlen

/-- The frame of a payload that fits, byte by byte of its header (R81). -/
theorem encodeFrame_eq_cons (h : p.length ≤ 61) :
    encodeFrame p = .ok (0x04 :: (checksum p).extractLsb' 0 8 :: (checksum p).extractLsb' 8 8 ::
      frameBody p) := by
  rw [encodeFrame_of_le h]; rfl

/-- Only a payload that fits has a frame (R82). -/
theorem length_le_of_encodeFrame {f : Frame} (h : encodeFrame p = .ok f) : p.length ≤ 61 := by
  by_contra hlt
  rw [encodeFrame_of_gt (not_le.mp hlt)] at h
  cases h

theorem byteSum_le_of_length_le (h : p.length ≤ 61) : byteSum p ≤ 15555 := by
  have := byteSum_le p
  omega

/-- The checksum of a payload that fits never wraps (R80). -/
theorem checksum_toNat_of_le (h : p.length ≤ 61) : (checksum p).toNat = byteSum p := by
  have := byteSum_le_of_length_le h
  rw [checksum_toNat, Nat.mod_eq_of_lt (by omega)]

/-- A reordering of the bytes has the same checksum (R91 (h)). -/
theorem checksum_eq_of_perm {q : Payload} (h : p.Perm q) : checksum p = checksum q := by
  have hsum : byteSum p = byteSum q := (h.map BitVec.toNat).sum_eq
  exact BitVec.eq_of_toNat_eq (by rw [checksum_toNat, checksum_toNat, hsum])

end

/-- Settles O1: the header's three bytes, then the payload and its padding by index. -/
theorem encodeLaysOutFrame : Obligations.EncodeLaysOutFrame := by
  unfold Obligations.EncodeLaysOutFrame
  intro p hp
  have hlen := frameBody_length hp
  refine ⟨_, encodeFrame_eq_cons hp, by simp [hlen], rfl, ⟨_, _, rfl, rfl, ?_⟩, ?_, ?_⟩
  · rw [le16_bytes_toNat, checksum_toNat]
  · intro i hi
    rw [Nat.add_comm]
    exact frameBody_getElem?_of_lt hi
  · intro i hlo hhi
    obtain ⟨j, rfl⟩ := Nat.exists_eq_add_of_le' (show 3 ≤ i by omega)
    exact frameBody_getElem?_of_ge (by omega) (by omega)

/-- Settles O3: at most 61 bytes of at most 255 sum to at most 15555. -/
theorem checksumIsByteSum : Obligations.ChecksumIsByteSum := by
  unfold Obligations.ChecksumIsByteSum
  exact ⟨checksum_toNat, rfl, fun p hp => ⟨byteSum_le_of_length_le hp, checksum_toNat_of_le hp⟩⟩

/-- Settles O4: (a) to (e) read the frame's parts, (f) and (g) compare two bodies, and (h) is about
the sum alone. -/
theorem encodeProperties : Obligations.EncodeProperties := by
  unfold Obligations.EncodeProperties
  refine ⟨fun p f hf => ?parts, fun p hp => ?zero, fun p q hlen hq heq => ?inj,
    fun p q hpq => checksum_eq_of_perm hpq⟩
  case parts =>
    have hp := length_le_of_encodeFrame hf
    rw [encodeFrame_eq_cons hp] at hf
    cases hf
    have hbytes : ((checksum p).extractLsb' 0 8).toNat + 256 * ((checksum p).extractLsb' 8 8).toNat
        = byteSum p := by
      rw [le16_bytes_toNat, checksum_toNat_of_le hp]
    have hsum := byteSum_le_of_length_le hp
    refine ⟨by simp [frameBody_length hp], rfl, ⟨_, ?_, rfl, hp⟩,
      ⟨_, _, rfl, rfl, by omega, by omega, ?_⟩⟩
    · rw [Nat.add_comm]
      exact frameBody_drop_length p
    · rw [hbytes]
      exact (byteSum_frameBody p).symm
  case zero =>
    have hlen : (p ++ [0]).length ≤ 61 := by simp; omega
    have hsum : checksum (p ++ [0]) = checksum p := by simp [checksum_concat]
    rw [encodeFrame_eq_cons (by omega), encodeFrame_eq_cons hlen, hsum, frameBody_concat_zero hp]
  case inj =>
    rw [encodeFrame_eq_cons (hlen.trans_le hq), encodeFrame_eq_cons hq] at heq
    simp only [Except.ok.injEq, List.cons.injEq] at heq
    obtain ⟨-, -, -, hbody⟩ := heq
    exact frameBody_inj hlen hbody

/-- Settles O2: such a payload and its header do not fit 64 bytes. -/
theorem encodeRefusesOversize : Obligations.EncodeRefusesOversize := by
  unfold Obligations.EncodeRefusesOversize
  exact fun p hp => encodeFrame_of_gt hp

/-! ### The frame bytes the encoder's registers give -/

section
variable {fe : FrameEncoder} {i : BitVec 6}

theorem frameByte_of_zero (h : i.toNat = 0) : fe.frameByte i = 0x04 := by
  simp [FrameEncoder.frameByte, h]

theorem frameByte_of_one (h : i.toNat = 1) : fe.frameByte i = fe.csum.extractLsb' 0 8 := by
  simp [FrameEncoder.frameByte, h]

theorem frameByte_of_two (h : i.toNat = 2) : fe.frameByte i = fe.csum.extractLsb' 8 8 := by
  simp [FrameEncoder.frameByte, h]

/-- From index 3 on, the accepted bytes and then padding (R87). -/
theorem frameByte_of_ge_three (h : 3 ≤ i.toNat) : fe.frameByte i =
    if i.toNat < 3 + fe.plen.toNat then Memory.read fe.pbuf (i.toNat - 3) else 0 := by
  have h0 : i.toNat ≠ 0 := by omega
  have h1 : i.toNat ≠ 1 := by omega
  have h2 : i.toNat ≠ 2 := by omega
  simp only [FrameEncoder.frameByte, h0, h1, h2, if_false]

/-- In registers that agree, `FE.csum` is the checksum of the accepted bytes (R25). -/
theorem csum_eq_checksum_loaded (h : FrameEncoderSound fe) : fe.csum = checksum (loaded fe) := by
  have hlen : (loaded fe).length ≤ 61 := (loaded_length fe).trans_le h.plenBound
  exact BitVec.eq_of_toNat_eq (by rw [checksum_toNat_of_le hlen, h.csumCurrent])

theorem loaded_getElem? {a : Nat} (h : a < fe.plen.toNat) :
    (loaded fe)[a]? = some (Memory.read fe.pbuf a) := by
  simp [loaded, h]

/-- After the header, `FrameByte` reads the body of the accepted bytes' frame (R87, R90). -/
theorem frameBody_loaded_getElem? (h : 3 ≤ i.toNat) :
    (frameBody (loaded fe))[i.toNat - 3]? = some (fe.frameByte i) := by
  have hi : i.toNat < 64 := i.isLt
  have hlen := loaded_length fe
  rw [frameByte_of_ge_three h]
  split_ifs with hin
  · rw [frameBody_getElem?_of_lt (by omega), loaded_getElem? (by omega)]
  · exact frameBody_getElem?_of_ge (by omega) (by omega)

end

/-- Settles O9: the five cases of `FrameByte`, its checksum bytes as numbers. -/
theorem frameByteByIndex : Obligations.FrameByteByIndex := by
  unfold Obligations.FrameByteByIndex
  intro fe i
  have hc : fe.csum.toNat < 65536 := fe.csum.isLt
  refine ⟨frameByte_of_zero, fun h => ?low, fun h => ?high, fun h hin => ?payload,
    fun h hout => ?padding⟩
  case low =>
    rw [frameByte_of_one h, BitVec.extractLsb'_toNat, Nat.shiftRight_zero]
  case high =>
    rw [frameByte_of_two h, BitVec.extractLsb'_toNat, Nat.shiftRight_eq_div_pow]
    omega
  case payload => rw [frameByte_of_ge_three h, if_pos hin]
  case padding => rw [frameByte_of_ge_three h, if_neg hout.not_gt]

/-- Settles O50: `FrameByte` against the frame of the accepted bytes, at the header's three indices
and after them. -/
theorem emittedBytesAreTheFrame : Obligations.EmittedBytesAreTheFrame := by
  unfold Obligations.EmittedBytesAreTheFrame
  intro fe i hs _
  refine ⟨_, encodeFrame_eq_cons ((loaded_length fe).trans_le hs.plenBound), ?_⟩
  rw [← csum_eq_checksum_loaded hs]
  obtain h | h | h | h : i.toNat = 0 ∨ i.toNat = 1 ∨ i.toNat = 2 ∨ 3 ≤ i.toNat := by omega
  · rw [frameByte_of_zero h, h]; rfl
  · rw [frameByte_of_one h, h]; rfl
  · rw [frameByte_of_two h, h]; rfl
  · rw [← frameBody_loaded_getElem? h]
    obtain ⟨j, hj⟩ := Nat.exists_eq_add_of_le' h
    rw [hj]; rfl

/-! ### The byte-level operations in each phase -/

section
variable {s : State}

theorem exec_fePush_of_emit (b : Byte) (h : s.fe.phase = .emit) :
    exec (.fePush b) s = .fault .inputHeld := by
  have hexec : exec (.fePush b) s = execFePush b s := rfl
  rw [hexec, execFePush, h]

theorem exec_feFin_of_load (h : s.fe.phase = .load) :
    exec .feFin s = .next ({ s with fe := s.fe.finish }.complete s.fe.finishCode) := by
  have hexec : exec .feFin s = execFeFin s := rfl
  rw [hexec, execFeFin, h]

theorem exec_feFin_of_emit (h : s.fe.phase = .emit) : exec .feFin s = .fault .inputHeld := by
  have hexec : exec .feFin s = execFeFin s := rfl
  rw [hexec, execFeFin, h]

theorem exec_fePop_of_emit (h : s.fe.phase = .emit) :
    exec .fePop s = .next { s with fe := s.fe.pop, replies := s.replies ++ [s.fe.popReply] } := by
  have hexec : exec .fePop s = execFePop s := rfl
  rw [hexec, execFePop, h]

theorem exec_fePop_of_load (h : s.fe.phase = .load) : exec .fePop s = .fault .outputHeld := by
  have hexec : exec .fePop s = execFePop s := rfl
  rw [hexec, execFePop, h]

/-- `FE.PUSH` completes in LOAD only (R89). -/
theorem exec_fePush_completes_iff (b : Byte) :
    (∃ u, exec (.fePush b) s = .next u) ↔ s.fe.phase = .load :=
  ⟨fun ⟨_, hu⟩ => (execFePush_next hu).1, fun h => ⟨_, exec_fePush_of_load b h⟩⟩

/-- `FE.FIN` completes in LOAD only (R89). -/
theorem exec_feFin_completes_iff : (∃ u, exec .feFin s = .next u) ↔ s.fe.phase = .load :=
  ⟨fun ⟨_, hu⟩ => (execFeFin_next hu).1, fun h => ⟨_, exec_feFin_of_load h⟩⟩

/-- `FE.POP` completes in EMIT only (R89). -/
theorem exec_fePop_completes_iff : (∃ u, exec .fePop s = .next u) ↔ s.fe.phase = .emit :=
  ⟨fun ⟨_, hu⟩ => (execFePop_next hu).1, fun h => ⟨_, exec_fePop_of_emit h⟩⟩

end

/-- Only the last pop ends the emission (R88). -/
theorem pop_phase_eq_load_iff {fe : FrameEncoder} (h : fe.phase = .emit) :
    fe.pop.phase = .load ↔ fe.oidx.toNat = 63 := by
  by_cases hlast : fe.oidx.toNat = 63
  · simp [pop_of_last fe hlast, hlast]
  · simp [pop_of_more fe hlast, hlast, h]

/-- The end of the payload starts the emission unless it was oversize (R86). -/
theorem finish_phase_eq_emit_iff {fe : FrameEncoder} (h : fe.phase = .load) :
    fe.finish.phase = .emit ↔ fe.ovf = false := by
  cases ho : fe.ovf with
  | true => simp [finish_of_ovf fe ho, h]
  | false => simp [finish_of_fit fe ho]

theorem finishCode_of_fit {fe : FrameEncoder} (h : fe.ovf = false) : fe.finishCode = .ok := by
  simp [FrameEncoder.finishCode, h]

theorem finishCode_of_ovf {fe : FrameEncoder} (h : fe.ovf = true) :
    fe.finishCode = .payloadTooLarge := by
  simp [FrameEncoder.finishCode, h]

/-- Settles O6: the two cases of a push, its additions written as sums modulo the width. -/
theorem pushStoresOrOverflows : Obligations.PushStoresOrOverflows := by
  unfold Obligations.PushStoresOrOverflows
  intro b s
  refine ⟨rfl, fun hload => ?_⟩
  rw [exec_fePush_of_load b hload]
  refine ⟨fun ho hp => ?room, fun hfull => ?full⟩
  case room =>
    have hcsum : s.fe.csum + b.setWidth 16 = BitVec.ofNat 16 (s.fe.csum.toNat + b.toNat) := by
      bv_omega
    have hplen : s.fe.plen + 1 = BitVec.ofNat 6 (s.fe.plen.toNat + 1) := by bv_omega
    rw [push_of_room s.fe b ho hp, hcsum, hplen]
  case full => rw [push_of_no_room s.fe b hfull]

/-- Settles O8: the two cases of `finish` with their result codes. -/
theorem finStartsOrRefuses : Obligations.FinStartsOrRefuses := by
  unfold Obligations.FinStartsOrRefuses
  refine ⟨rfl, fun s hload => ?_⟩
  rw [exec_feFin_of_load hload]
  refine ⟨fun ho => ?fit, fun ho => ?oversize⟩
  case fit => rw [finish_of_fit s.fe ho, finishCode_of_fit ho]; rfl
  case oversize => rw [finish_of_ovf s.fe ho, finishCode_of_ovf ho]; rfl

/-- Settles O10: the two cases of `pop` with the marks of their replies. -/
theorem popEmitsFrameByte : Obligations.PopEmitsFrameByte := by
  unfold Obligations.PopEmitsFrameByte
  refine ⟨rfl, fun s hemit => ?_⟩
  rw [exec_fePop_of_emit hemit]
  refine ⟨fun hmore => ?more, fun hlast => ?last⟩
  case more =>
    have hoidx : s.fe.oidx + 1 = BitVec.ofNat 6 (s.fe.oidx.toNat + 1) := by bv_omega
    rw [pop_of_more s.fe hmore, hoidx]
    simp [FrameEncoder.popReply, hmore]
  case last =>
    have hoidx : s.fe.oidx = 63 := BitVec.eq_of_toNat_eq hlast
    rw [pop_of_last s.fe hlast]
    simp [FrameEncoder.popReply, hoidx]

/-- Settles O11: each operation completes in one phase only, and the phase changes at the last pop
and at a `FE.FIN` without oversize. -/
theorem wrongPhaseIsHeld : Obligations.WrongPhaseIsHeld := by
  unfold Obligations.WrongPhaseIsHeld
  intro b s
  refine ⟨fun hemit => ?emit, fun hload => ?load⟩
  case emit =>
    have hlift := pop_phase_eq_load_iff hemit
    exact ⟨exec_fePush_of_emit b hemit, exec_feFin_of_emit hemit, _, exec_fePop_of_emit hemit,
      (exec_fePush_completes_iff b).trans hlift, exec_feFin_completes_iff.trans hlift⟩
  case load =>
    exact ⟨exec_fePop_of_load hload, _, exec_feFin_of_load hload,
      exec_fePop_completes_iff.trans (finish_phase_eq_emit_iff hload)⟩

end Sys2Proof.Machine

/-! ### What a body command does that sends its payload, or whose builder raises an error -/

namespace Sys2Proof.Machine

open Sys2Proof.Safety

/-- The low byte, then the high byte, by division. -/
theorem le16_eq_ofNat (v : BitVec 16) :
    le16 v = [BitVec.ofNat 8 v.toNat, BitVec.ofNat 8 (v.toNat / 256)] := by
  have hlo : v.extractLsb' 0 8 = BitVec.ofNat 8 v.toNat := rfl
  have hhi : v.extractLsb' 8 8 = BitVec.ofNat 8 (v.toNat / 256) := by
    apply BitVec.eq_of_toNat_eq
    simp [Nat.shiftRight_eq_div_pow]
  rw [le16, hlo, hhi]

/-- The three low bytes of a colour, high byte first, by division. -/
theorem be24_eq_ofNat (c : Colour) : be24 c =
    [BitVec.ofNat 8 (c.toNat / 65536), BitVec.ofNat 8 (c.toNat / 256),
      BitVec.ofNat 8 c.toNat] := by
  have hhi : c.extractLsb' 16 8 = BitVec.ofNat 8 (c.toNat / 65536) := by
    apply BitVec.eq_of_toNat_eq
    simp [Nat.shiftRight_eq_div_pow]
  have hmid : c.extractLsb' 8 8 = BitVec.ofNat 8 (c.toNat / 256) := by
    apply BitVec.eq_of_toNat_eq
    simp [Nat.shiftRight_eq_div_pow]
  have hlo : c.extractLsb' 0 8 = BitVec.ofNat 8 c.toNat := rfl
  rw [be24, hhi, hmid, hlo]

/-- The frame function makes the frame that R60 lays out. -/
theorem encodeFrame_eq_frameOf {p : Payload} (h : p.length ≤ 61) :
    encodeFrame p = .ok (frameOf p) := by
  rw [encodeFrame_of_le h, le16_eq_ofNat, checksum_toNat_of_le h]
  rfl

theorem endingAt_zero (s : State) : endingAt s 0 = s.nextEnding := rfl

/-- A delivered `OK` is just returned, inside a transaction or outside (R122). -/
theorem deliver_ok (s : State) : deliver .ok s = .next (s.complete .ok) := by
  simp [deliver]

theorem unlessFaulted_of_unfaulted {s : State} (run : Outcome) (h : s.fault = false) :
    unlessFaulted s run = run := by
  simp [unlessFaulted, h]

theorem transactionOpen_of_idle {s : State} (h : s.ts = .idle) : s.transactionOpen = false := by
  simp [State.transactionOpen, h]

/-- A completion in Idle with nothing sent, as an outcome. -/
theorem complete_eq_outcomeOf {s : State} {e : ResultCode} (hts : s.ts = .idle)
    (hfault : s.fault = false) : s.complete e = outcomeOf s [] .idle false e := by
  simp [State.complete, outcomeOf, ← hts, ← hfault]

/-- A completion after one successful send, as an outcome. -/
theorem recordSend_complete_eq_outcomeOf {s : State} (f : Frame) (hfault : s.fault = false) :
    (s.recordSend f .ok).complete .ok = outcomeOf s [⟨f, .ok⟩] s.ts false .ok := by
  simp [State.complete, State.recordSend, outcomeOf, hfault]

section
variable {i : Instr} {s : State}

/-- A body command of a present unit, on a block without fault, is sent and delivered (R126). -/
theorem exec_eq_sendBuilt {b : Built} (hi : isBody i = true) (hacc : accepted i s = true)
    (hfault : s.fault = false) (hb : build i = some b) : exec i s = sendBuilt b s := by
  rw [exec_of_isBody hi hb, if_pos hacc, bodyCommand, unlessFaulted_of_unfaulted _ hfault]

/-- A body command whose payload fits sends its frame and returns `OK`, if the send succeeds
(R126). -/
theorem exec_of_sends {p : Payload} (hi : isBody i = true) (hacc : accepted i s = true)
    (hfault : s.fault = false) (h : sends i p) (hend : endingAt s 0 = some .ok) :
    exec i s = .next (outcomeOf s [⟨frameOf p, .ok⟩] s.ts false .ok) := by
  obtain ⟨hb, hlen⟩ := h
  have hsend : sendPayload p s = some (.ok, s.recordSend (frameOf p) .ok) :=
    sendPayload_of_ending (encodeFrame_eq_frameOf hlen) hend
  calc exec i s = sendBuilt (.ok p) s := exec_eq_sendBuilt hi hacc hfault hb
    _ = deliver .ok (s.recordSend (frameOf p) .ok) := by simp only [sendBuilt, hsend]
    _ = .next ((s.recordSend (frameOf p) .ok).complete .ok) := deliver_ok _
    _ = .next (outcomeOf s [⟨frameOf p, .ok⟩] s.ts false .ok) := by
      rw [recordSend_complete_eq_outcomeOf _ hfault]

/-- A raised error is delivered in the state the operation began in: nothing was sent (R113,
R122). -/
theorem exec_eq_deliver_of_raises {e : ResultCode} (hi : isBody i = true)
    (hacc : accepted i s = true) (hfault : s.fault = false) (h : raises i e) :
    exec i s = deliver e s := by
  obtain hb | ⟨p, hb, hlen, rfl⟩ := h
  · exact exec_eq_sendBuilt hi hacc hfault hb
  · rw [exec_eq_sendBuilt hi hacc hfault hb]
    simp only [sendBuilt, sendPayload_of_gt s hlen]

/-- In Idle a raised error is returned and nothing is sent (R127). -/
theorem exec_of_raises_idle {e : ResultCode} (hi : isBody i = true) (hacc : accepted i s = true)
    (hfault : s.fault = false) (h : raises i e) (hts : s.ts = .idle) :
    exec i s = .next (outcomeOf s [] .idle false e) := by
  rw [exec_eq_deliver_of_raises hi hacc hfault h, deliver_closed (transactionOpen_of_idle hts),
    complete_eq_outcomeOf hts hfault]

theorem isBody_of_isBuilder (h : isBuilder i = true) : isBody i = true := by
  simp [isBody, h]

theorem accepted_of_hasCb (h : s.profile.hasCb = true) : accepted i s = true := by
  simp [accepted, h]

theorem rawSetting_length (id : Byte) (d : List Byte) :
    (rawSetting id d).length = d.length + 5 := by
  simp [rawSetting]

/-- The setting payload of one data byte (R62). -/
theorem rawSetting_singleton (id b : Byte) :
    rawSetting id [b] = [0x06, 0x01, id, 0x00, 0x00, b] := rfl

theorem build_of_inRange {inRange : Bool} {id : Byte} {d : List Byte}
    (hb : build i = some (checkedSetting inRange id d)) (h : inRange = true) :
    build i = some (.ok (rawSetting id d)) := by
  rw [hb, checkedSetting_of_inRange id d h]

/-- A check that fails is all that a setter answers (R143). -/
theorem raises_of_not_inRange {inRange : Bool} {id : Byte} {d : List Byte}
    (hb : build i = some (checkedSetting inRange id d)) (h : inRange = false) :
    raises i .valueOutOfRange :=
  .inl (by simp [hb, checkedSetting, h])

end

/-! ### The builder operations -/

section
variable {i : Instr} {s : State} (hi : isBuilder i = true) (hcb : s.profile.hasCb = true)
  (hfault : s.fault = false)

include hi hcb hfault

/-- A builder operation that builds a setting payload of at most 56 data bytes sends it. -/
theorem exec_of_build_rawSetting {id : Byte} {d : List Byte}
    (hb : build i = some (.ok (rawSetting id d))) (hd : d.length ≤ 56)
    (hend : endingAt s 0 = some .ok) :
    exec i s = .next (outcomeOf s [⟨frameOf (rawSetting id d), .ok⟩] s.ts false .ok) := by
  have hlen : (rawSetting id d).length ≤ 61 := by rw [rawSetting_length]; omega
  exact exec_of_sends (isBody_of_isBuilder hi) (accepted_of_hasCb hcb) hfault ⟨hb, hlen⟩ hend

/-- A builder operation that raises an error returns it in Idle without sending. -/
theorem raises_and_exec_idle {e : ResultCode} (h : raises i e) :
    raises i e ∧ (s.ts = .idle → exec i s = .next (outcomeOf s [] .idle false e)) :=
  ⟨h, exec_of_raises_idle (isBody_of_isBuilder hi) (accepted_of_hasCb hcb) hfault h⟩

/-- One that builds a setting payload of one data byte sends that. -/
theorem exec_of_build_oneByte {id b : Byte} (hb : build i = some (.ok (rawSetting id [b])))
    (hend : endingAt s 0 = some .ok) :
    exec i s = .next (outcomeOf s
      [⟨frameOf [0x06, 0x01, id, 0x00, 0x00, b], .ok⟩] s.ts false .ok) := by
  rw [exec_of_build_rawSetting hi hcb hfault hb (by simp) hend, rawSetting_singleton]

/-- The setters of a level from 0 to 3 differ in the setting's id alone (R103, R104, R108, R109). -/
theorem levelSetter_sends_or_refuses {id v : Byte}
    (hb : build i = some (checkedSetting (levelInRange v) id [v])) :
    (v.toNat ≤ 3 → endingAt s 0 = some .ok →
      exec i s = .next (outcomeOf s
        [⟨frameOf [0x06, 0x01, id, 0x00, 0x00, v], .ok⟩] s.ts false .ok)) ∧
    (3 < v.toNat →
      raises i .valueOutOfRange ∧ (s.ts = .idle →
        exec i s = .next (outcomeOf s [] .idle false .valueOutOfRange))) := by
  refine ⟨fun hv => ?legal, fun hv => ?illegal⟩
  case legal => exact exec_of_build_oneByte hi hcb hfault (build_of_inRange hb (decide_eq_true hv))
  case illegal =>
    exact raises_and_exec_idle hi hcb hfault
      (raises_of_not_inRange hb (decide_eq_false hv.not_ge))

end

/-- Settles O15: header and data are 5 bytes more than the data, so 56 data bytes fill a payload. -/
theorem rawSettingSendsHeaderAndData : Obligations.RawSettingSendsHeaderAndData := by
  unfold Obligations.RawSettingSendsHeaderAndData
  intro id d s hcb hfault
  refine ⟨rfl, fun hd => exec_of_build_rawSetting rfl hcb hfault rfl hd, fun hd => ?oversize⟩
  have hlen : 61 < (rawSetting id d).length := by rw [rawSetting_length]; omega
  exact raises_and_exec_idle rfl hcb hfault (.inr ⟨_, rfl, hlen, rfl⟩)

/-- Settles O17: the check of the mode is a bound on each side. -/
theorem setModeSends : Obligations.SetModeSends := by
  unfold Obligations.SetModeSends
  intro m s hcb hfault
  refine ⟨rfl, fun hmin hmax => ?legal, fun hm => ?illegal⟩
  case legal =>
    exact exec_of_build_oneByte rfl hcb hfault (build_of_inRange rfl (by simp [hmin, hmax]))
  case illegal =>
    have hcheck : ¬ (1 ≤ m.toNat ∧ m.toNat ≤ 0x21) := by omega
    refine raises_and_exec_idle rfl hcb hfault (raises_of_not_inRange rfl ?_)
    rw [← Bool.decide_and]
    exact decide_eq_false hcheck

/-- Settles O18: a level setter of id `01`. -/
theorem setBrightnessSends : Obligations.SetBrightnessSends := by
  unfold Obligations.SetBrightnessSends
  exact fun v s hcb hfault => ⟨rfl, levelSetter_sends_or_refuses rfl hcb hfault rfl⟩

/-- Settles O19: a level setter of id `02`. -/
theorem setSpeedSends : Obligations.SetSpeedSends := by
  unfold Obligations.SetSpeedSends
  exact fun v s hcb hfault => ⟨rfl, levelSetter_sends_or_refuses rfl hcb hfault rfl⟩

/-- Settles O20: both directions build one data byte, unchecked. -/
theorem setDirectionSends : Obligations.SetDirectionSends := by
  unfold Obligations.SetDirectionSends
  exact fun forward s hcb hfault =>
    ⟨rfl, exec_of_build_oneByte rfl hcb hfault rfl⟩

/-- Settles O21: both switches build one data byte, unchecked. -/
theorem setColorfulSends : Obligations.SetColorfulSends := by
  unfold Obligations.SetColorfulSends
  exact fun enabled s hcb hfault =>
    ⟨rfl, exec_of_build_oneByte rfl hcb hfault rfl⟩

/-- Settles O22: the three data bytes are those of `be24`. -/
theorem setColorSends : Obligations.SetColorSends := by
  unfold Obligations.SetColorSends
  intro c s hcb hfault
  refine ⟨rfl, fun hc hend => ?legal, fun hc => ?illegal⟩
  case legal =>
    rw [exec_of_build_rawSetting rfl hcb hfault (build_of_inRange rfl (decide_eq_true hc))
      (by simp [be24]) hend, be24_eq_ofNat]
    rfl
  case illegal =>
    exact raises_and_exec_idle rfl hcb hfault
      (raises_of_not_inRange rfl (decide_eq_false hc.not_ge))

/-- Settles O23: a level setter of id `0F`. -/
theorem setPollingRateSends : Obligations.SetPollingRateSends := by
  unfold Obligations.SetPollingRateSends
  exact fun v s hcb hfault => ⟨rfl, levelSetter_sends_or_refuses rfl hcb hfault rfl⟩

/-- Settles O24: a level setter of id `11`. -/
theorem setGradientSends : Obligations.SetGradientSends := by
  unfold Obligations.SetGradientSends
  exact fun v s hcb hfault => ⟨rfl, levelSetter_sends_or_refuses rfl hcb hfault rfl⟩

/-! ### The checks and the payload of `RAW_KEY_RGB` -/

section
variable {o : BitVec 16} {cs : List Colour}

theorem all_colourInRange_iff :
    cs.all colourInRange = true ↔ ∀ c ∈ cs, c.toNat ≤ 0xFFFFFF := by
  simp [colourInRange]

/-- The colours are checked first (R101, C2). -/
theorem buildRawKeyRgb_of_illegal_colour (h : ∃ c ∈ cs, 0xFFFFFF < c.toNat) :
    buildRawKeyRgb o cs = .error .valueOutOfRange := by
  obtain ⟨c, hc, hlt⟩ := h
  have hall : ¬ cs.all colourInRange = true := fun hall =>
    hlt.not_ge (all_colourInRange_iff.mp hall c hc)
  simp only [buildRawKeyRgb, hall, Bool.not_false, if_true]

/-- The offset is checked next (R101). -/
theorem buildRawKeyRgb_of_illegal_offset (hcs : ∀ c ∈ cs, c.toNat ≤ 0xFFFFFF)
    (ho : 21845 < o.toNat) : buildRawKeyRgb o cs = .error .valueOutOfRange := by
  simp [buildRawKeyRgb, all_colourInRange_iff.mpr hcs, ho]

/-- The count is checked last (R101). -/
theorem buildRawKeyRgb_of_too_many (hcs : ∀ c ∈ cs, c.toNat ≤ 0xFFFFFF) (ho : o.toNat ≤ 21845)
    (hlen : 18 < cs.length) : buildRawKeyRgb o cs = .error .payloadTooLarge := by
  simp [buildRawKeyRgb, all_colourInRange_iff.mpr hcs, ho.not_gt, hlen]

theorem rawKeyRgb_length (o : BitVec 16) (cs : List Colour) :
    (rawKeyRgb o cs).length = 3 * cs.length + 5 := by
  have hcolours : (cs.flatMap be24).length = 3 * cs.length := by
    simp [be24, List.length_flatMap, Nat.mul_comm]
  simp only [rawKeyRgb, le16, List.length_append, List.length_cons, List.length_nil, hcolours]
  omega

/-- Three times a legal offset does not wrap, so its two bytes are those of the product (R101,
D13). -/
theorem rawKeyRgb_eq_of_legal_offset (ho : o.toNat ≤ 21845) : rawKeyRgb o cs =
    [0x11, BitVec.ofNat 8 (3 * cs.length), BitVec.ofNat 8 (o.toNat * 3),
        BitVec.ofNat 8 (o.toNat * 3 / 256), 0] ++
      cs.flatMap fun c => [BitVec.ofNat 8 (c.toNat / 65536), BitVec.ofNat 8 (c.toNat / 256),
        BitVec.ofNat 8 c.toNat] := by
  have htriple : (o * 3).toNat = o.toNat * 3 := by
    rw [BitVec.toNat_mul]
    exact Nat.mod_eq_of_lt (show o.toNat * 3 < 65536 by omega)
  rw [rawKeyRgb, le16_eq_ofNat, htriple, funext be24_eq_ofNat]
  rfl

end

/-- Settles O16: each check behind those before it, then a payload of at most 59 bytes. -/
theorem rawKeyRgbChecksAndSends : Obligations.RawKeyRgbChecksAndSends := by
  unfold Obligations.RawKeyRgbChecksAndSends
  intro o cs s hcb hfault
  have refuses {e : ResultCode} (hb : buildRawKeyRgb o cs = .error e) :=
    raises_and_exec_idle (i := .rawKeyRgb o cs) rfl hcb hfault (.inl (congrArg some hb))
  refine ⟨rfl, fun hc => refuses (buildRawKeyRgb_of_illegal_colour hc),
    fun hcs ho => refuses (buildRawKeyRgb_of_illegal_offset hcs ho),
    fun hcs ho hlen => refuses (buildRawKeyRgb_of_too_many hcs ho hlen),
    fun hcs ho hlen hend => ?legal⟩
  have hfit : (rawKeyRgb o cs).length ≤ 61 := by rw [rawKeyRgb_length]; omega
  have hsends : sends (.rawKeyRgb o cs) (rawKeyRgb o cs) :=
    ⟨congrArg some (buildRawKeyRgb_of_legal ho hlen hcs), hfit⟩
  rw [exec_of_sends rfl (accepted_of_hasCb hcb) hfault hsends hend,
    rawKeyRgb_eq_of_legal_offset ho]

end Sys2Proof.Machine

/-! ### What a send, a delivery and an auto-close lead to -/

namespace Sys2Proof.Machine

open Sys2Proof.Safety

@[simp] theorem SendEnd.code_ok : SendEnd.ok.code = .ok := rfl

theorem SendEnd.code_of_ne {e : SendEnd} (h : e ≠ .ok) : e.code = .transportFailure := if_neg h

/-- A state that `n` sends have led to sees the endings of `s` from place `n` on. -/
theorem endingAt_eq_add {s t : State} {n : Nat} (ha : t.answers = s.answers.drop n)
    (hd : t.draws = s.draws + n) (hp : t.profile = s.profile) (k : Nat) :
    endingAt t k = endingAt s (n + k) := by
  simp only [endingAt, ha, hd, hp, List.drop_drop, Nat.add_assoc]

section
variable {s : State} {p : Payload} {e : SendEnd}

theorem endingAt_recordSend (s : State) (f : Frame) (e : SendEnd) (k : Nat) :
    endingAt (s.recordSend f e) k = endingAt s (1 + k) :=
  endingAt_eq_add (t := s.recordSend f e) (by simp) rfl rfl k

theorem endingAt_outcomeOf (s : State) (sent : List Sent) (ts : TsState) (fault : Bool)
    (code : ResultCode) (k : Nat) :
    endingAt (outcomeOf s sent ts fault code) k = endingAt s (sent.length + k) :=
  endingAt_eq_add (t := outcomeOf s sent ts fault code) rfl rfl rfl k

/-- A completion with nothing sent, as an outcome. -/
theorem setTs_complete_eq_outcomeOf (s : State) (ts : TsState) (code : ResultCode) :
    (s.setTs ts).complete code = outcomeOf s [] ts s.fault code := by
  simp [outcomeOf, State.setTs, State.complete]

/-- A frame sent first is the first frame of the outcome. -/
theorem outcomeOf_recordSend (s : State) (f : Frame) (e : SendEnd) (sent : List Sent)
    (ts : TsState) (fault : Bool) (code : ResultCode) :
    outcomeOf (s.recordSend f e) sent ts fault code
      = outcomeOf s (⟨f, e⟩ :: sent) ts fault code := by
  simp [outcomeOf, State.recordSend, Nat.add_assoc, Nat.add_comm 1]

/-- A completion after one send, as an outcome. -/
theorem recordSend_setTs_complete_eq_outcomeOf (s : State) (f : Frame) (e : SendEnd)
    (ts : TsState) (code : ResultCode) :
    ((s.recordSend f e).setTs ts).complete code
      = outcomeOf s [⟨f, e⟩] ts (s.fault || e != .ok) code := by
  rw [setTs_complete_eq_outcomeOf, outcomeOf_recordSend, State.recordSend_fault]

theorem sendPayload_of_fit (hlen : p.length ≤ 61) (hend : endingAt s 0 = some e) :
    sendPayload p s = some (e.code, s.recordSend (frameOf p) e) :=
  sendPayload_of_ending (encodeFrame_eq_frameOf hlen) hend

theorem sendBuilt_of_fit (hlen : p.length ≤ 61) (hend : endingAt s 0 = some e) :
    sendBuilt (.ok p) s = deliver e.code (s.recordSend (frameOf p) e) := by
  simp only [sendBuilt, sendPayload_of_fit hlen hend]

/-- A raised error is delivered with nothing sent (R113, R122). -/
theorem sendBuilt_of_raises {i : Instr} {b : Built} {r : ResultCode} (hb : build i = some b)
    (h : raises i r) : sendBuilt b s = deliver r s := by
  obtain hb' | ⟨p, hb', hlen, rfl⟩ := h
  all_goals cases hb.symm.trans hb'
  · rfl
  · simp only [sendBuilt, sendPayload_of_gt s hlen]

/-- Outside a transaction every result is just returned (R127). -/
theorem deliver_closed_eq_outcomeOf (h : s.transactionOpen = false) (code : ResultCode) :
    deliver code s = .next (outcomeOf s [] s.ts s.fault code) := by
  rw [deliver_closed h]
  exact congrArg _ (setTs_complete_eq_outcomeOf s s.ts code)

/-- Outside a transaction a payload that fits is sent, whatever comes of it (R127). -/
theorem sendBuilt_of_fit_closed (h : s.transactionOpen = false) (hlen : p.length ≤ 61)
    (hend : endingAt s 0 = some e) :
    sendBuilt (.ok p) s
      = .next (outcomeOf s [⟨frameOf p, e⟩] s.ts (s.fault || e != .ok) e.code) := by
  have hclosed : (s.recordSend (frameOf p) e).transactionOpen = false := h
  rw [sendBuilt_of_fit hlen hend, deliver_closed_eq_outcomeOf hclosed, outcomeOf_recordSend,
    State.recordSend_ts, State.recordSend_fault]

theorem transactionOpen_of_inTransaction (hp : s.profile.hasTs = true)
    (hts : s.ts = .inTransaction) : s.transactionOpen = true := by
  simp [State.transactionOpen, hp, hts]

theorem transactionOpen_of_not_hasTs (hp : s.profile.hasTs = false) :
    s.transactionOpen = false := by
  simp [State.transactionOpen, hp]

/-- The auto-close sends the end marker, and its failure takes the place of the error (R128,
R129). -/
theorem autoClose_eq_outcomeOf (r : ResultCode) (hend : endingAt s 0 = some e) :
    autoClose r s = .next (outcomeOf s [⟨frameOf [0x02], e⟩] .idle (s.fault || e != .ok)
      (if e = .ok then r else .transportFailure)) := by
  have hsend : sendPayload endMarker s = some (e.code, s.recordSend (frameOf [0x02]) e) :=
    sendPayload_of_fit (by decide) hend
  simp only [autoClose, hsend, recordSend_setTs_complete_eq_outcomeOf]
  by_cases he : e = .ok
  · simp [he]
  · simp [he, SendEnd.code_of_ne he]

/-- Inside a transaction an error is delivered by the auto-close (R128). -/
theorem deliver_error_open {r : ResultCode} (h : s.transactionOpen = true) (hr : r ≠ .ok) :
    deliver r s = autoClose r s := by
  rw [deliver, if_pos h, if_neg hr]

theorem openTransaction_eq_outcomeOf (hend : endingAt s 0 = some e) :
    openTransaction s = .next (outcomeOf s [⟨frameOf [0x01], e⟩]
      (if e = .ok then .inTransaction else .idle) (s.fault || e != .ok) e.code) := by
  have hsend : sendPayload beginMarker s = some (e.code, s.recordSend (frameOf [0x01]) e) :=
    sendPayload_of_fit (by decide) hend
  have hcode : e.code = .ok ↔ e = .ok := by cases e <;> decide
  simp only [openTransaction, hsend, recordSend_setTs_complete_eq_outcomeOf, hcode]

theorem closeTransaction_eq_outcomeOf (hend : endingAt s 0 = some e) :
    closeTransaction s
      = .next (outcomeOf s [⟨frameOf [0x02], e⟩] .idle (s.fault || e != .ok) e.code) := by
  have hsend : sendPayload endMarker s = some (e.code, s.recordSend (frameOf [0x02]) e) :=
    sendPayload_of_fit (by decide) hend
  simp only [closeTransaction, hsend, recordSend_setTs_complete_eq_outcomeOf]

end

/-- Settles O37: the three ways an answer can end a send. -/
theorem transportSendEndings : Obligations.TransportSendEndings := by
  unfold Obligations.TransportSendEndings
  intro f s a rest hans
  have hnext : s.nextEnding = a.ending s.profile.transportTimeout := by
    simp [State.nextEnding, hans]
  refine ⟨fun hw => ?_, fun hw hr => ?_, fun hw hr => ?_⟩
  · have hend : s.nextEnding = some .writeFailed := by simp [hnext, Answer.ending, hw]
    simp [transportSend_of_ending f hend, State.recordSend, hans]
  · have hend : s.nextEnding = some .readFailed := by simp [hnext, Answer.ending, hw, hr]
    simp [transportSend_of_ending f hend, State.recordSend, hans]
  · have hend : s.nextEnding = some .ok := by simp [hnext, Answer.ending, hw, hr]
    simp [transportSend_of_ending f hend, State.recordSend, hans]

/-! ### `BEGIN` and `END` -/

section
variable {s : State}

theorem exec_beginTx_of_not_hasTs (hp : s.profile.hasTs = false) :
    exec .beginTx s = bodyCommand (.ok beginMarker) s := by
  simp [exec, execBegin, hp]

theorem exec_endTx_of_not_hasTs (hp : s.profile.hasTs = false) :
    exec .endTx s = bodyCommand (.ok endMarker) s := by
  simp [exec, execEnd, hp]

section
variable (hp : s.profile.hasTs = true)

include hp

theorem exec_beginTx_eq_openTransaction (hts : s.ts = .idle) :
    exec .beginTx s = unlessFaulted s (openTransaction s) := by
  simp [exec, execBegin, hp, hts]

theorem exec_beginTx_eq_deliver (hts : s.ts = .inTransaction) :
    exec .beginTx s = unlessFaulted s (deliver .transactionAlreadyOpen s) := by
  simp [exec, execBegin, hp, hts]

theorem exec_endTx_eq_closeTransaction (hts : s.ts = .inTransaction) :
    exec .endTx s = unlessFaulted s (closeTransaction s) := by
  simp [exec, execEnd, hp, hts]

theorem exec_endTx_eq_complete (hts : s.ts = .idle) :
    exec .endTx s = unlessFaulted s (.next (s.complete .transactionNotOpen)) := by
  simp [exec, execEnd, hp, hts]

variable (hfault : s.fault = false)

include hfault

/-- `BEGIN` from Idle opens a transaction if its send succeeds (R124). -/
theorem exec_beginTx_of_idle (hts : s.ts = .idle) {e : SendEnd} (hend : endingAt s 0 = some e) :
    exec .beginTx s = .next (outcomeOf s [⟨frameOf [0x01], e⟩]
      (if e = .ok then .inTransaction else .idle) (e != .ok) e.code) := by
  rw [exec_beginTx_eq_openTransaction hp hts, unlessFaulted_of_unfaulted _ hfault,
    openTransaction_eq_outcomeOf hend, hfault, Bool.false_or]

/-- `BEGIN` inside a transaction only closes it (R130). -/
theorem exec_beginTx_of_inTransaction (hts : s.ts = .inTransaction) {x : SendEnd}
    (hend : endingAt s 0 = some x) :
    exec .beginTx s = .next (outcomeOf s [⟨frameOf [0x02], x⟩] .idle (x != .ok)
      (if x = .ok then .transactionAlreadyOpen else .transportFailure)) := by
  rw [exec_beginTx_eq_deliver hp hts, unlessFaulted_of_unfaulted _ hfault,
    deliver_error_open (transactionOpen_of_inTransaction hp hts) (by decide),
    autoClose_eq_outcomeOf _ hend, hfault, Bool.false_or]

/-- `END` inside a transaction closes it (R125). -/
theorem exec_endTx_of_inTransaction (hts : s.ts = .inTransaction) {x : SendEnd}
    (hend : endingAt s 0 = some x) :
    exec .endTx s = .next (outcomeOf s [⟨frameOf [0x02], x⟩] .idle (x != .ok) x.code) := by
  rw [exec_endTx_eq_closeTransaction hp hts, unlessFaulted_of_unfaulted _ hfault,
    closeTransaction_eq_outcomeOf hend, hfault, Bool.false_or]

/-- `END` in Idle is refused (R132). -/
theorem exec_endTx_of_idle (hts : s.ts = .idle) :
    exec .endTx s = .next (outcomeOf s [] .idle false .transactionNotOpen) := by
  rw [exec_endTx_eq_complete hp hts, unlessFaulted_of_unfaulted _ hfault,
    complete_eq_outcomeOf hts hfault]

end
end

/-- Settles O28: the nested `BEGIN` whose closing send succeeds. -/
theorem nestedBeginCloses : Obligations.NestedBeginCloses := by
  unfold Obligations.NestedBeginCloses
  exact fun s hp hfault hts hend => exec_beginTx_of_inTransaction hp hfault hts hend

/-- Settles O29: nothing is sent, so only the code is new. -/
theorem endInIdleRefused : Obligations.EndInIdleRefused := by
  unfold Obligations.EndInIdleRefused
  exact fun s hp hfault hts => exec_endTx_of_idle hp hfault hts

/-- Settles O26: `BEGIN` in each transaction state, with each ending of its send. -/
theorem beginOpensTransaction : Obligations.BeginOpensTransaction := by
  unfold Obligations.BeginOpensTransaction
  refine ⟨rfl, fun s hp hfault => ⟨fun hts hend => ?opens, fun hts e he hend => ?fails,
    fun hts hend => ?nested⟩⟩
  case opens => exact exec_beginTx_of_idle hp hfault hts hend
  case fails =>
    rw [exec_beginTx_of_idle hp hfault hts hend, if_neg he, SendEnd.code_of_ne he,
      bne_iff_ne.mpr he]
  case nested => exact ⟨_, exec_beginTx_of_inTransaction hp hfault hts hend, rfl, rfl⟩

/-- Settles O27: `END` in each transaction state, with each ending of its send. -/
theorem endClosesTransaction : Obligations.EndClosesTransaction := by
  unfold Obligations.EndClosesTransaction
  refine ⟨rfl, fun s hp hfault => ⟨fun hts hend => ?closes, fun hts e he hend => ?fails,
    fun hts => ?idle⟩⟩
  case closes => exact exec_endTx_of_inTransaction hp hfault hts hend
  case fails =>
    rw [exec_endTx_of_inTransaction hp hfault hts hend, SendEnd.code_of_ne he,
      bne_iff_ne.mpr he]
  case idle => exact ⟨_, exec_endTx_of_idle hp hfault hts, rfl, rfl⟩

/-! ### Body commands that fail -/

section
variable {i : Instr} {s : State}

/-- No builder answers `OK` as an error (R113, R143). -/
theorem build_ne_error_ok (i : Instr) : build i ≠ some (.error .ok) := by
  intro hb
  cases i with
  | fePush | feFin | fePop => cases hb
  | sendRaw | beginTx | endTx | rawSetting | setDirection | setColorful => cases hb
  | rawKeyRgb o cs =>
    have hbuilt : buildRawKeyRgb o cs = .error .ok := Option.some.inj hb
    unfold buildRawKeyRgb at hbuilt
    split_ifs at hbuilt <;> cases hbuilt
  | setMode | setBrightness | setSpeed | setColor | setPollingRate | setGradient =>
    have hchecked (inRange : Bool) (id : Byte) (d : List Byte) :
        checkedSetting inRange id d ≠ .error .ok := by
      cases inRange <;> simp [checkedSetting]
    exact hchecked _ _ _ (Option.some.inj hb)

theorem raises_ne_ok {e : ResultCode} (h : raises i e) : e ≠ .ok := by
  obtain hb | ⟨p, -, -, rfl⟩ := h
  · rintro rfl
    exact build_ne_error_ok i hb
  · decide

section
variable (hi : isBody i = true) (hacc : accepted i s = true) (hfault : s.fault = false)

include hi hacc hfault

/-- In Idle a failed send is returned as `TransportFailure`, and no end marker follows (R127). -/
theorem exec_of_failed_send_idle {p : Payload} {e : SendEnd} (h : sends i p) (he : e ≠ .ok)
    (hend : endingAt s 0 = some e) (hts : s.ts = .idle) :
    exec i s = .next (outcomeOf s [⟨frameOf p, e⟩] .idle true .transportFailure) := by
  obtain ⟨hb, hlen⟩ := h
  rw [exec_eq_sendBuilt hi hacc hfault hb,
    sendBuilt_of_fit_closed (transactionOpen_of_idle hts) hlen hend, hts, SendEnd.code_of_ne he,
    bne_iff_ne.mpr he, Bool.or_true]

variable (hp : s.profile.hasTs = true) (hts : s.ts = .inTransaction)

include hp hts

/-- Inside a transaction a raised error sends the end marker and nothing else (R128, R129). -/
theorem exec_of_raises_open {e : ResultCode} {x : SendEnd} (h : raises i e)
    (hend : endingAt s 0 = some x) :
    exec i s = .next (outcomeOf s [⟨frameOf [0x02], x⟩] .idle (x != .ok)
      (if x = .ok then e else .transportFailure)) := by
  rw [exec_eq_deliver_of_raises hi hacc hfault h,
    deliver_error_open (transactionOpen_of_inTransaction hp hts) (raises_ne_ok h),
    autoClose_eq_outcomeOf e hend, hfault, Bool.false_or]

/-- Inside a transaction a failed send is followed by the end marker, and however that ends the
result is `TransportFailure` (R128, R129). -/
theorem exec_of_failed_send_open {p : Payload} {e x : SendEnd} (h : sends i p) (he : e ≠ .ok)
    (hend : endingAt s 0 = some e) (hclose : endingAt s 1 = some x) :
    exec i s = .next (outcomeOf s [⟨frameOf p, e⟩, ⟨frameOf [0x02], x⟩] .idle true
      .transportFailure) := by
  obtain ⟨hb, hlen⟩ := h
  have hopen : (s.recordSend (frameOf p) e).transactionOpen = true :=
    transactionOpen_of_inTransaction hp hts
  have hclose' : endingAt (s.recordSend (frameOf p) e) 0 = some x :=
    (endingAt_recordSend ..).trans hclose
  rw [exec_eq_sendBuilt hi hacc hfault hb, sendBuilt_of_fit hlen hend, SendEnd.code_of_ne he,
    deliver_error_open hopen (by decide), autoClose_eq_outcomeOf _ hclose', outcomeOf_recordSend,
    State.recordSend_fault, bne_iff_ne.mpr he, Bool.or_true, Bool.true_or, ite_self]

end
end

/-- Settles O33: a send that succeeds in either state, and the two kinds of error in Idle. -/
theorem bodyCommandSends : Obligations.BodyCommandSends := by
  unfold Obligations.BodyCommandSends
  intro i s hi hacc hfault
  exact ⟨fun p h hend => exec_of_sends hi hacc hfault h hend,
    fun hts e h => exec_of_raises_idle hi hacc hfault h hts,
    fun hts p e h he hend => exec_of_failed_send_idle hi hacc hfault h he hend hts⟩

/-- Settles O14: `SEND_RAW` is a body command that builds its operand, whatever it is. -/
theorem sendRawSendsPayload : Obligations.SendRawSendsPayload := by
  unfold Obligations.SendRawSendsPayload
  intro p s hfault
  have hacc : accepted (.sendRaw p) s = true := by simp [accepted, isBuilder]
  obtain ⟨hok, hraised, hfailed⟩ := bodyCommandSends (.sendRaw p) s rfl hacc hfault
  refine ⟨rfl, fun hlen => hok p ⟨rfl, hlen⟩,
    fun hlen hts e => hfailed hts p e ⟨rfl, hlen⟩, fun hlen => ?oversize⟩
  have hraises : raises (.sendRaw p) .payloadTooLarge := .inr ⟨p, rfl, hlen, rfl⟩
  exact ⟨hraises, fun hts => hraised hts _ hraises⟩

/-- Settles O32: the failed closing send after each of its triggers. -/
theorem releaseFailureWins : Obligations.ReleaseFailureWins := by
  unfold Obligations.ReleaseFailureWins
  intro i s x hp hts hfault hacc hx
  have hbne : (x != .ok) = true := bne_iff_ne.mpr hx
  refine ⟨fun hi hend e h => ?raised, fun hi p e h he hend hclose => ?failed,
    fun hmarker hend => ?marker⟩
  case raised => rw [exec_of_raises_open hi hacc hfault hp hts h hend, hbne, if_neg hx]
  case failed => exact exec_of_failed_send_open hi hacc hfault hp hts h he hend hclose
  case marker =>
    obtain rfl | rfl := hmarker
    · rw [exec_beginTx_of_inTransaction hp hfault hts hend, hbne, if_neg hx]
    · rw [exec_endTx_of_inTransaction hp hfault hts hend, hbne, SendEnd.code_of_ne hx]

/-! ### What a `CMD` operation does on any block -/

section
variable {i : Instr} {s : State}

/-- The operations of `CMD` are the body commands, `BEGIN` and `END` (R126). -/
theorem isBody_or_marker_of_isCmd (hi : isCmd i = true) :
    isBody i = true ∨ i = .beginTx ∨ i = .endTx := by
  cases i <;> simp_all [isCmd, isBody, isBuilder, build]

/-- Every operation of `CMD` that the block has begins by looking at `fault`, and on a block without
one sends a payload, delivers an error, opens or closes a transaction, or is an `END` refused in
Idle. -/
theorem exec_isCmd_eq (hi : isCmd i = true) (hacc : accepted i s = true) :
    ∃ run, exec i s = unlessFaulted s run ∧
      ((∃ b, run = sendBuilt b s) ∨ (∃ r, run = deliver r s) ∨ run = openTransaction s ∨
        run = closeTransaction s ∨ run = .next (s.complete .transactionNotOpen)) := by
  obtain hbody | rfl | rfl := isBody_or_marker_of_isCmd hi
  · obtain ⟨b, hb⟩ := Option.isSome_iff_exists.mp hi
    exact ⟨sendBuilt b s, by rw [exec_of_isBody hbody hb, if_pos hacc, bodyCommand], .inl ⟨b, rfl⟩⟩
  · cases hp : s.profile.hasTs with
    | false => exact ⟨_, exec_beginTx_of_not_hasTs hp, .inl ⟨_, rfl⟩⟩
    | true =>
      cases hts : s.ts with
      | idle => exact ⟨_, exec_beginTx_eq_openTransaction hp hts, .inr (.inr (.inl rfl))⟩
      | inTransaction => exact ⟨_, exec_beginTx_eq_deliver hp hts, .inr (.inl ⟨_, rfl⟩)⟩
  · cases hp : s.profile.hasTs with
    | false => exact ⟨_, exec_endTx_of_not_hasTs hp, .inl ⟨_, rfl⟩⟩
    | true =>
      cases hts : s.ts with
      | idle => exact ⟨_, exec_endTx_eq_complete hp hts, .inr (.inr (.inr (.inr rfl)))⟩
      | inTransaction =>
        exact ⟨_, exec_endTx_eq_closeTransaction hp hts, .inr (.inr (.inr (.inl rfl)))⟩

/-- A faulted block refuses every operation of `CMD` (R131). -/
theorem exec_of_faulted (hi : isCmd i = true) (hacc : accepted i s = true)
    (hfault : s.fault = true) :
    exec i s = .next (outcomeOf s [] s.ts true .sessionFaulted) := by
  obtain ⟨run, hrun, -⟩ := exec_isCmd_eq hi hacc
  rw [hrun, unlessFaulted, if_pos hfault, ← hfault]
  exact congrArg _ (setTs_complete_eq_outcomeOf s s.ts .sessionFaulted)

/-- Without the sequencer every operation of `CMD` is a body command (R135). -/
theorem exec_eq_sendBuilt_of_not_hasTs {b : Built} (hi : isCmd i = true)
    (hacc : accepted i s = true) (hfault : s.fault = false) (hp : s.profile.hasTs = false)
    (hb : build i = some b) : exec i s = sendBuilt b s := by
  obtain hbody | rfl | rfl := isBody_or_marker_of_isCmd hi
  · exact exec_eq_sendBuilt hbody hacc hfault hb
  · cases hb
    rw [exec_beginTx_of_not_hasTs hp, bodyCommand, unlessFaulted_of_unfaulted _ hfault]
  · cases hb
    rw [exec_endTx_of_not_hasTs hp, bodyCommand, unlessFaulted_of_unfaulted _ hfault]

end

/-- Settles O30: the refusal, `fault` as what it was or a failed send, and a status read at the head
of the offers. -/
theorem faultedBlockRefuses : Obligations.FaultedBlockRefuses := by
  unfold Obligations.FaultedBlockRefuses
  intro s hfault
  refine ⟨fun i hi hacc => exec_of_faulted hi hacc hfault, fun i t h => ?sticky,
    fun n rest hs => ?stat⟩
  case sticky => rw [faultSetByFailedSend i s t h, hfault, Bool.true_or]
  case stat => exact ⟨_, step_of_head hs rfl nofun, rfl⟩

/-- Settles O31: each trigger of the auto-close with a closing send that succeeds, and the faulted
block. -/
theorem autoCloseOnError : Obligations.AutoCloseOnError := by
  unfold Obligations.AutoCloseOnError
  intro i s hp hts hacc
  refine ⟨fun hfault hi hend e h => exec_of_raises_open hi hacc hfault hp hts h hend,
    fun hfault hi p e h he hend hclose =>
      exec_of_failed_send_open hi hacc hfault hp hts h he hend hclose,
    fun hfault hbegin hend => ?nested, fun hfault hi => ?faulted⟩
  case nested => subst hbegin; exact exec_beginTx_of_inTransaction hp hfault hts hend
  case faulted => rw [exec_of_faulted hi hacc hfault, hts]

/-- Settles O36: with no transaction ever open, every result is just returned. -/
theorem withoutSequencer : Obligations.WithoutSequencer := by
  unfold Obligations.WithoutSequencer
  intro i s hp hi hacc
  have hclosed := transactionOpen_of_not_hasTs hp
  have sent {p e} (hfault : s.fault = false) (h : sends i p) (hend : endingAt s 0 = some e) :
      exec i s = .next (outcomeOf s [⟨frameOf p, e⟩] s.ts (e != .ok) e.code) := by
    rw [exec_eq_sendBuilt_of_not_hasTs hi hacc hfault hp h.1,
      sendBuilt_of_fit_closed hclosed h.2 hend, hfault, Bool.false_or]
  refine ⟨fun hfault => exec_of_faulted hi hacc hfault, fun hfault p h hend => sent hfault h hend,
    fun hfault p e h he hend => ?failed, fun hfault e h => ?raised, ?_, ?_⟩
  case failed => rw [sent hfault h hend, bne_iff_ne.mpr he, SendEnd.code_of_ne he]
  case raised =>
    have hdeliver : exec i s = deliver e s := by
      obtain ⟨b, hb⟩ := Option.isSome_iff_exists.mp hi
      rw [exec_eq_sendBuilt_of_not_hasTs hi hacc hfault hp hb, sendBuilt_of_raises hb h]
    rw [hdeliver, deliver_closed_eq_outcomeOf hclosed, hfault]
  all_goals
    rintro rfl
    exact ⟨rfl, by decide⟩

end Sys2Proof.Machine

/-! ### Every operation completes when the transport answers -/

namespace Sys2Proof.Machine

open Sys2Proof.Safety

theorem transportAnswers_iff {s : State} : transportAnswers s = true ↔
    s.profile.transportTimeout = true ∨ ∀ a ∈ s.answers, a.wr ≠ .never ∧ a.rd ≠ .never := by
  simp [transportAnswers]

/-- An answer that comes, or a timeout, ends the send (R120, R144). -/
theorem Answer.exists_ending {timeout : Bool} {a : Answer}
    (h : timeout = true ∨ a.wr ≠ .never ∧ a.rd ≠ .never) : ∃ e, a.ending timeout = some e := by
  cases hw : a.wr with
  | no => exact ⟨.writeFailed, by simp [Answer.ending, hw]⟩
  | never => exact ⟨.writeFailed, by simpa [Answer.ending, hw] using h⟩
  | yes =>
    cases hr : a.rd with
    | yes => exact ⟨.ok, by simp [Answer.ending, hw, hr]⟩
    | no => exact ⟨.readFailed, by simp [Answer.ending, hw, hr]⟩
    | never => exact ⟨.readFailed, by simpa [Answer.ending, hw, hr] using h⟩

section
variable {s : State} (h : transportAnswers s = true)

include h

/-- When the transport answers, every send ends (R170). -/
theorem exists_endingAt_of_transportAnswers : ∃ e, endingAt s 0 = some e := by
  rw [endingAt_zero, State.nextEnding]
  cases hans : s.answers with
  | nil => exact ⟨_, rfl⟩
  | cons a rest =>
    have hcomes := (transportAnswers_iff.mp h).imp_right fun hall => hall a (by simp [hans])
    exact Answer.exists_ending hcomes

/-- A send leaves a transport that answers. -/
theorem transportAnswers_recordSend (f : Frame) (e : SendEnd) :
    transportAnswers (s.recordSend f e) = true :=
  transportAnswers_iff.mpr ((transportAnswers_iff.mp h).imp_right
    fun hall a ha => hall a (List.mem_of_mem_tail ha))

theorem autoClose_completes (r : ResultCode) : ∃ t, autoClose r s = .next t := by
  obtain ⟨e, hend⟩ := exists_endingAt_of_transportAnswers h
  exact ⟨_, autoClose_eq_outcomeOf r hend⟩

theorem deliver_completes (r : ResultCode) : ∃ t, deliver r s = .next t := by
  unfold deliver
  split_ifs
  · exact ⟨_, rfl⟩
  · exact autoClose_completes h r
  · exact ⟨_, rfl⟩

/-- A payload is refused as too long or sent, and either way the result is delivered (R122). -/
theorem sendBuilt_completes (b : Built) : ∃ t, sendBuilt b s = .next t := by
  cases b with
  | error r => exact deliver_completes h r
  | ok p =>
    rcases Nat.lt_or_ge 61 p.length with hlen | hlen
    · simp only [sendBuilt, sendPayload_of_gt s hlen]
      exact deliver_completes h _
    · obtain ⟨e, hend⟩ := exists_endingAt_of_transportAnswers h
      rw [sendBuilt_of_fit hlen hend]
      exact deliver_completes (transportAnswers_recordSend h _ e) _

/-- Every operation of `CMD` the block has completes when the transport answers (R122). -/
theorem exec_isCmd_completes {i : Instr} (hi : isCmd i = true) (hacc : accepted i s = true) :
    ∃ t, exec i s = .next t := by
  obtain ⟨run, hexec, hrun⟩ := exec_isCmd_eq hi hacc
  have hcompletes : ∃ t, run = .next t := by
    obtain ⟨e, hend⟩ := exists_endingAt_of_transportAnswers h
    obtain ⟨b, rfl⟩ | ⟨r, rfl⟩ | rfl | rfl | rfl := hrun
    · exact sendBuilt_completes h b
    · exact deliver_completes h r
    · exact ⟨_, openTransaction_eq_outcomeOf hend⟩
    · exact ⟨_, closeTransaction_eq_outcomeOf hend⟩
    · exact ⟨_, rfl⟩
  rw [hexec, unlessFaulted]
  split_ifs
  · exact ⟨_, rfl⟩
  · exact hcompletes

end

/-- Settles O40: the operation completes, and what it completes with is an outcome, whose code is in
`err` and on `RES`. -/
theorem everyCommandCompletes : Obligations.EveryCommandCompletes := by
  unfold Obligations.EveryCommandCompletes
  intro i s hi hacc hanswers
  obtain ⟨t, ht⟩ := exec_isCmd_completes hanswers hi hacc
  obtain ⟨sent, ts, code, -, -, rfl⟩ := exec_isCmd_completesWithin hi ht
  exact ⟨_, code, ht, rfl, rfl⟩

end Sys2Proof.Machine

/-! ### Transactions of any length -/

namespace Sys2Proof.Machine

open Sys2Proof.Safety

theorem runAll_cons_of_next {i : Instr} {s t : State} (is : List Instr) (h : exec i s = .next t) :
    runAll (i :: is) s = runAll is t := by
  simp only [runAll, h]

theorem runAll_singleton (i : Instr) (s : State) : runAll [i] s = exec i s := by
  cases h : exec i s <;> simp [runAll, h]

/-- `s` after operations that sent these payloads one after another, each returning `OK`, in a
session where `err` was `OK` before (42_transaction_sequencer R126). -/
def afterSends (s : State) (ps : List Payload) : State :=
  { s with
    txHistory := s.txHistory ++ ps.map fun p => ⟨frameOf p, .ok⟩
    answers := s.answers.drop ps.length
    draws := s.draws + ps.length
    replies := s.replies ++ List.replicate ps.length (.res .ok) }

@[simp] theorem afterSends_nil (s : State) : afterSends s [] = s := by
  simp [afterSends]

theorem endingAt_afterSends (s : State) (ps : List Payload) (k : Nat) :
    endingAt (afterSends s ps) k = endingAt s (ps.length + k) :=
  endingAt_eq_add (t := afterSends s ps) rfl rfl rfl k

/-- The outcome of one successful send, and more of them after it. -/
theorem afterSends_outcomeOf {s : State} (p : Payload) (ps : List Payload)
    (hfault : s.fault = false) (herr : s.err = .ok) :
    afterSends (outcomeOf s [⟨frameOf p, .ok⟩] s.ts false .ok) ps = afterSends s (p :: ps) := by
  simp [afterSends, outcomeOf, hfault, herr, List.replicate_succ, Nat.add_assoc, Nat.add_comm 1]

/-- Body commands that build these payloads, on a block without fault, send them in order
(R126). -/
theorem runAll_body_append (rest : List Instr) :
    ∀ (body : List (Instr × Payload)) (s : State), s.fault = false → s.err = .ok →
      (∀ x ∈ body, isBody x.1 = true ∧ accepted x.1 s = true ∧ sends x.1 x.2) →
      (∀ k, k < body.length → endingAt s k = some .ok) →
      runAll (body.map Prod.fst ++ rest) s = runAll rest (afterSends s (body.map Prod.snd))
  | [], s, _, _, _, _ => by simp
  | (i, p) :: body, s, hfault, herr, hbody, hend => by
    obtain ⟨⟨hi, hacc, hsends⟩, hrest⟩ := List.forall_mem_cons.mp hbody
    have hexec := exec_of_sends hi hacc hfault hsends (hend 0 (Nat.succ_pos _))
    have hend' : ∀ k, k < body.length →
        endingAt (outcomeOf s [⟨frameOf p, .ok⟩] s.ts false .ok) k = some .ok := fun k hk => by
      rw [endingAt_outcomeOf]
      exact hend _ (by simp; omega)
    calc runAll (((i, p) :: body).map Prod.fst ++ rest) s
        = runAll (body.map Prod.fst ++ rest) (outcomeOf s [⟨frameOf p, .ok⟩] s.ts false .ok) :=
          runAll_cons_of_next _ hexec
      _ = runAll rest (afterSends (outcomeOf s [⟨frameOf p, .ok⟩] s.ts false .ok)
            (body.map Prod.snd)) := runAll_body_append rest body _ rfl rfl hrest hend'
      _ = runAll rest (afterSends s (p :: body.map Prod.snd)) := by
          rw [afterSends_outcomeOf p _ hfault herr]

/-- `s` inside a transaction that has sent these payloads. -/
def openAfter (s : State) (ps : List Payload) : State :=
  afterSends (outcomeOf s [⟨frameOf [0x01], .ok⟩] .inTransaction false .ok) ps

section
variable {s : State} {body : List (Instr × Payload)}

theorem endingAt_openAfter (s : State) (ps : List Payload) (k : Nat) :
    endingAt (openAfter s ps) k = endingAt s (1 + (ps.length + k)) := by
  rw [openAfter, endingAt_afterSends, endingAt_outcomeOf]
  rfl

/-- `BEGIN` and body commands that succeed lead into the open transaction, whatever operation comes
next (R124, R126). -/
theorem runAll_beginTx_body (last : Instr) (hp : s.profile.hasTs = true) (hts : s.ts = .idle)
    (hfault : s.fault = false)
    (hbody : ∀ x ∈ body, isBody x.1 = true ∧ accepted x.1 s = true ∧ sends x.1 x.2)
    (hend : ∀ k, k < body.length + 2 → endingAt s k = some .ok) :
    runAll (.beginTx :: body.map Prod.fst ++ [last]) s
      = exec last (openAfter s (body.map Prod.snd)) := by
  have hbegin := exec_beginTx_of_idle hp hfault hts (hend 0 (by omega))
  have hend' : ∀ k, k < body.length →
      endingAt (outcomeOf s [⟨frameOf [0x01], .ok⟩] .inTransaction false .ok) k = some .ok :=
    fun k hk => by
      rw [endingAt_outcomeOf]
      exact hend _ (by simp; omega)
  calc runAll (.beginTx :: body.map Prod.fst ++ [last]) s
      = runAll (body.map Prod.fst ++ [last])
          (outcomeOf s [⟨frameOf [0x01], .ok⟩] .inTransaction false .ok) :=
        runAll_cons_of_next _ hbegin
    _ = runAll [last] (openAfter s (body.map Prod.snd)) :=
        runAll_body_append _ body (outcomeOf s [⟨frameOf [0x01], .ok⟩] .inTransaction false .ok)
          rfl rfl hbody hend'
    _ = exec last (openAfter s (body.map Prod.snd)) := runAll_singleton ..

/-- The end marker's send is the last of those that succeed. -/
theorem endingAt_openAfter_body (hend : ∀ k, k < body.length + 2 → endingAt s k = some .ok) :
    endingAt (openAfter s (body.map Prod.snd)) 0 = some .ok := by
  rw [endingAt_openAfter]
  exact hend _ (by simp; omega)

/-- A transaction closed with the end marker, field by field. -/
theorem outcomeOf_openAfter (s : State) (ps : List Payload) (code : ResultCode) :
    outcomeOf (openAfter s ps) [⟨frameOf [0x02], .ok⟩] .idle false code = { s with
      ts := .idle
      fault := false
      err := code
      txHistory := s.txHistory ++ (([0x01] :: ps ++ [[0x02]]).map fun p => ⟨frameOf p, .ok⟩)
      answers := s.answers.drop (ps.length + 2)
      draws := s.draws + (ps.length + 2)
      replies := s.replies ++ List.replicate (ps.length + 1) (.res .ok) ++ [.res code] } := by
  have hcount : 1 + (ps.length + 1) = ps.length + 2 := by omega
  simp [openAfter, afterSends, outcomeOf, List.replicate_succ, Nat.add_assoc, hcount]

end

/-- Settles O34: `END` in the open transaction that `BEGIN` and the body lead to. -/
theorem successfulTransaction : Obligations.SuccessfulTransaction := by
  unfold Obligations.SuccessfulTransaction
  intro s body hp hts hfault hbody hend
  rw [runAll_beginTx_body .endTx hp hts hfault hbody hend,
    exec_endTx_of_inTransaction (s := openAfter s _) hp rfl rfl (endingAt_openAfter_body hend)]
  refine congrArg _ ((outcomeOf_openAfter ..).trans ?_)
  simp [List.replicate_succ' (n := body.length + 1)]

/-- Settles O35: the failing command in the open transaction that `BEGIN` and the body lead to,
where its error is an auto-close. -/
theorem failingBodyReleases : Obligations.FailingBodyReleases := by
  unfold Obligations.FailingBodyReleases
  intro s body c e hp hts hfault hbody hc hacc hraises hend
  rw [runAll_beginTx_body c hp hts hfault hbody hend,
    exec_of_raises_open (s := openAfter s _) hc hacc rfl hp rfl hraises
      (endingAt_openAfter_body hend)]
  refine congrArg _ ((outcomeOf_openAfter ..).trans ?_)
  simp

end Sys2Proof.Machine

/-! ### The response bytes -/

namespace Sys2Proof.Machine

open Sys2Proof.Safety

/-- What `run` answers does not depend on the response bytes of the transport's answers (10_state
R36, 42_transaction_sequencer R120). -/
def IgnoresResponses (run : State → Outcome) : Prop :=
  ∀ s, run (blindToResponses s) = mapNext blindToResponses (run s)

@[simp] theorem Answer.ending_withResp (timeout : Bool) (a : Answer) (resp : Vector Byte 64) :
    ({ a with resp := resp }).ending timeout = a.ending timeout := rfl

section
variable (s : State)

@[simp] theorem blindToResponses_fe : (blindToResponses s).fe = s.fe := rfl
@[simp] theorem blindToResponses_ts : (blindToResponses s).ts = s.ts := rfl
@[simp] theorem blindToResponses_fault : (blindToResponses s).fault = s.fault := rfl
@[simp] theorem blindToResponses_profile : (blindToResponses s).profile = s.profile := rfl
@[simp] theorem blindToResponses_offers : (blindToResponses s).offers = s.offers := rfl

@[simp] theorem blindToResponses_transactionOpen :
    (blindToResponses s).transactionOpen = s.transactionOpen := rfl

/-- How a send ends does not depend on the response. -/
@[simp] theorem blindToResponses_nextEnding : (blindToResponses s).nextEnding = s.nextEnding := by
  cases hans : s.answers <;> simp [State.nextEnding, blindToResponses, hans]

theorem recordSend_blindToResponses (f : Frame) (e : SendEnd) :
    (blindToResponses s).recordSend f e = blindToResponses (s.recordSend f e) := by
  simp [State.recordSend, blindToResponses]

/-- `SendPayload` looks at how its send ends alone (R121). -/
theorem sendPayload_blindToResponses (p : Payload) :
    sendPayload p (blindToResponses s)
      = (sendPayload p s).map (Prod.map id blindToResponses) := by
  cases hf : encodeFrame p with
  | error r => simp [sendPayload, hf]
  | ok f =>
    cases hend : s.nextEnding with
    | none =>
      rw [sendPayload_of_silent hf hend,
        sendPayload_of_silent hf ((blindToResponses_nextEnding s).trans hend)]
      rfl
    | some e =>
      rw [sendPayload_of_ending hf hend,
        sendPayload_of_ending hf ((blindToResponses_nextEnding s).trans hend),
        recordSend_blindToResponses]
      rfl

end

/-! #### The operations of `CMD` -/

theorem autoClose_ignoresResponses (r : ResultCode) : IgnoresResponses (autoClose r) := by
  intro s
  cases h : sendPayload endMarker s with
  | none => simp [autoClose, sendPayload_blindToResponses, h, mapNext]
  | some x =>
    simp only [autoClose, sendPayload_blindToResponses, h]
    rfl

/-- A choice that does not look at the responses, between runs that do not. -/
theorem IgnoresResponses.ite {c : State → Bool} {run₁ run₂ : State → Outcome}
    (hc : ∀ s, c (blindToResponses s) = c s) (h₁ : IgnoresResponses run₁)
    (h₂ : IgnoresResponses run₂) : IgnoresResponses fun s => if c s then run₁ s else run₂ s := by
  intro s
  simp only [hc]
  split_ifs
  · exact h₁ s
  · exact h₂ s

theorem complete_ignoresResponses (r : ResultCode) :
    IgnoresResponses fun s => .next (s.complete r) := fun _ => rfl

theorem deliver_ignoresResponses (r : ResultCode) : IgnoresResponses (deliver r) := by
  have hopen : IgnoresResponses fun s =>
      if r = .ok then .next (s.complete r) else autoClose r s := by
    split_ifs
    · exact complete_ignoresResponses r
    · exact autoClose_ignoresResponses r
  exact .ite blindToResponses_transactionOpen hopen (complete_ignoresResponses r)

theorem sendBuilt_ignoresResponses (b : Built) : IgnoresResponses (sendBuilt b) := by
  intro s
  cases b with
  | error r => exact deliver_ignoresResponses r s
  | ok p =>
    cases h : sendPayload p s with
    | none => simp [sendBuilt, sendPayload_blindToResponses, h, mapNext]
    | some x =>
      simp only [sendBuilt, sendPayload_blindToResponses, h]
      exact deliver_ignoresResponses x.1 x.2

theorem openTransaction_ignoresResponses : IgnoresResponses openTransaction := by
  intro s
  cases h : sendPayload beginMarker s with
  | none => simp [openTransaction, sendPayload_blindToResponses, h, mapNext]
  | some x =>
    simp only [openTransaction, sendPayload_blindToResponses, h]
    rfl

theorem closeTransaction_ignoresResponses : IgnoresResponses closeTransaction := by
  intro s
  cases h : sendPayload endMarker s with
  | none => simp [closeTransaction, sendPayload_blindToResponses, h, mapNext]
  | some x =>
    simp only [closeTransaction, sendPayload_blindToResponses, h]
    rfl

theorem IgnoresResponses.unlessFaulted {run : State → Outcome} (h : IgnoresResponses run) :
    IgnoresResponses fun s => unlessFaulted s (run s) :=
  .ite blindToResponses_fault (complete_ignoresResponses .sessionFaulted) h

theorem bodyCommand_ignoresResponses (b : Built) : IgnoresResponses (bodyCommand b) :=
  (sendBuilt_ignoresResponses b).unlessFaulted

theorem builderCommand_ignoresResponses (b : Built) : IgnoresResponses (builderCommand b) :=
  .ite (c := fun s => s.profile.hasCb) (fun _ => rfl) (bodyCommand_ignoresResponses b) fun _ => rfl

theorem exec_beginTx_ignoresResponses : IgnoresResponses (exec .beginTx) := by
  intro s
  cases hp : s.profile.hasTs with
  | false =>
    simpa [exec_beginTx_of_not_hasTs, hp] using bodyCommand_ignoresResponses (.ok beginMarker) s
  | true =>
    cases hts : s.ts with
    | idle =>
      simpa [exec_beginTx_eq_openTransaction, hp, hts] using
        openTransaction_ignoresResponses.unlessFaulted s
    | inTransaction =>
      simpa [exec_beginTx_eq_deliver, hp, hts] using
        (deliver_ignoresResponses .transactionAlreadyOpen).unlessFaulted s

theorem exec_endTx_ignoresResponses : IgnoresResponses (exec .endTx) := by
  intro s
  cases hp : s.profile.hasTs with
  | false =>
    simpa [exec_endTx_of_not_hasTs, hp] using bodyCommand_ignoresResponses (.ok endMarker) s
  | true =>
    cases hts : s.ts with
    | idle =>
      simpa [exec_endTx_eq_complete, hp, hts] using
        (complete_ignoresResponses .transactionNotOpen).unlessFaulted s
    | inTransaction =>
      simpa [exec_endTx_eq_closeTransaction, hp, hts] using
        closeTransaction_ignoresResponses.unlessFaulted s

/-! #### Any operation, any offer, any step -/

/-- No operation depends on a response: those of `CMD` are made of runs that do not, and those of
the byte level do not look at the answers at all. -/
theorem exec_ignoresResponses (i : Instr) : IgnoresResponses (exec i) := by
  cases i with
  | sendRaw p => exact bodyCommand_ignoresResponses _
  | beginTx => exact exec_beginTx_ignoresResponses
  | endTx => exact exec_endTx_ignoresResponses
  | rawSetting | rawKeyRgb | setMode | setBrightness | setSpeed | setDirection | setColorful
  | setColor | setPollingRate | setGradient => exact builderCommand_ignoresResponses _
  | fePush | feFin | fePop =>
    intro s
    simp only [exec, execFePush, execFeFin, execFePop, blindToResponses_fe]
    cases s.fe.phase <;> rfl

theorem carryOut_ignoresResponses (o : Offer) : IgnoresResponses (carryOut o) := by
  cases o with
  | op i => exact exec_ignoresResponses i
  | unassigned | stat | rst => exact fun _ => rfl

/-- Which answer hangs does not depend on the responses. -/
theorem drawnByHang_map_withResp (resp : Vector Byte 64) (as : List Answer) :
    drawnByHang (as.map fun a => { a with resp := resp }) = drawnByHang as := by
  induction as with
  | nil => rfl
  | cons a as ih => simp only [List.map_cons, drawnByHang, Answer.ending_withResp, ih]

theorem drawnByHang_blindToResponses (s : State) :
    drawnByHang (blindToResponses s).answers = drawnByHang s.answers :=
  drawnByHang_map_withResp _ s.answers

theorem besideHang_ignoresResponses (hung : Offer) : IgnoresResponses (besideHang hung) := by
  intro s
  cases htake : takeFirst (·.besideHang s.fe.phase) s.offers with
  | none => simp [besideHang, htake, mapNext]
  | some x =>
    obtain ⟨o, rest⟩ := x
    cases o with
    | rst =>
      simp only [besideHang, blindToResponses_fe, blindToResponses_offers, htake,
        drawnByHang_blindToResponses]
      simp [mapNext, State.afterReset, blindToResponses]
    | op | unassigned | stat =>
      simp only [besideHang, blindToResponses_fe, blindToResponses_offers, htake]
      exact carryOut_ignoresResponses _ { s with offers := hung :: rest }

/-- Blanking the responses out changes no stop. -/
theorem mapNext_eq_fault_iff {f : State → State} {out : Outcome} {r : Fault} :
    mapNext f out = .fault r ↔ out = .fault r := by
  cases out <;> simp [mapNext]

theorem takeOffer_ignoresResponses (o : Offer) : IgnoresResponses (takeOffer o) := by
  intro s
  have hcarry := carryOut_ignoresResponses o s
  by_cases hhang : carryOut o s = .fault .transportSilent
  · have hhang' : carryOut o (blindToResponses s) = .fault .transportSilent :=
      hcarry.trans (mapNext_eq_fault_iff.mpr hhang)
    rw [takeOffer_of_hang hhang, takeOffer_of_hang hhang']
    exact besideHang_ignoresResponses o s
  · have hhang' : carryOut o (blindToResponses s) ≠ .fault .transportSilent := by
      rwa [hcarry, Ne, mapNext_eq_fault_iff]
    rw [takeOffer_of_ne hhang, takeOffer_of_ne hhang', hcarry]

/-- Settles O38: the next offer is chosen from the phase and the offers, and carrying it out, beside
a hang too, ignores the responses. -/
theorem responsesNeverMatter : Obligations.ResponsesNeverMatter := by
  unfold Obligations.ResponsesNeverMatter
  intro s
  cases hnext : nextOffer s.fe.phase s.offers with
  | none => simp [step, hnext, mapNext]
  | some x =>
    simp only [step, blindToResponses_fe, blindToResponses_offers, hnext]
    exact takeOffer_ignoresResponses x.1 { s with offers := x.2 }

end Sys2Proof.Machine

/-! ### The codes the block raises -/

namespace Sys2Proof.Machine

open Sys2Proof.Safety

/-- A builder raises one of two errors (R113, R142, R143). -/
theorem eq_of_build_error {i : Instr} {e : ResultCode} (h : build i = some (.error e)) :
    e = .valueOutOfRange ∨ e = .payloadTooLarge := by
  cases i with
  | fePush | feFin | fePop => cases h
  | sendRaw | beginTx | endTx | rawSetting | setDirection | setColorful => cases h
  | rawKeyRgb o cs =>
    have hbuilt : buildRawKeyRgb o cs = .error e := Option.some.inj h
    unfold buildRawKeyRgb at hbuilt
    split_ifs at hbuilt <;> cases hbuilt <;> simp
  | setMode | setBrightness | setSpeed | setColor | setPollingRate | setGradient =>
    have hchecked {inRange : Bool} {id : Byte} {d : List Byte}
        (hd : checkedSetting inRange id d = .error e) : e = .valueOutOfRange := by
      cases inRange <;> cases hd
      rfl
    exact .inl (hchecked (Option.some.inj h))

/-- A faulted block refuses with `SessionFaulted`; any other returns the code of what it carried
out (R131). -/
theorem unlessFaulted_err_ne_deviceNotFound {s t : State} {run : Outcome}
    (h : unlessFaulted s run = .next t) (hrun : run = .next t → t.err ≠ .deviceNotFound) :
    t.err ≠ .deviceNotFound := by
  obtain ⟨-, rfl⟩ | ⟨-, hnext⟩ := unlessFaulted_next h
  · simp
  · exact hrun hnext

/-- A send answers `OK`, `PayloadTooLarge` or `TransportFailure` (R121). -/
theorem sendPayload_code_ne_deviceNotFound {p : Payload} {s s' : State} {r : ResultCode}
    (h : sendPayload p s = some (r, s')) : r ≠ .deviceNotFound := by
  obtain ⟨herr, -⟩ | ⟨f, e, -, -, rfl, -⟩ := sendPayload_some h
  · rcases Nat.lt_or_ge 61 p.length with hlen | hlen
    · rw [encodeFrame_of_gt hlen] at herr
      cases herr
      decide
    · rw [encodeFrame_of_le hlen] at herr
      cases herr
  · cases e <;> decide

/-- A delivery returns the code it is given or `TransportFailure` (R128, R129). -/
theorem deliver_err_ne_deviceNotFound {r : ResultCode} {s t : State} (hr : r ≠ .deviceNotFound)
    (h : deliver r s = .next t) : t.err ≠ .deviceNotFound := by
  obtain ⟨rfl, -⟩ | ⟨-, -, hclose⟩ := deliver_next h
  · exact hr
  · obtain ⟨f, x, -, -, rfl⟩ := autoClose_next hclose
    rw [State.complete_err]
    split_ifs
    · exact hr
    · decide

/-- A body command returns what its builder raised or what its send answered (R126). -/
theorem bodyCommand_err_ne_deviceNotFound {b : Built} {s t : State}
    (h : bodyCommand b s = .next t) (hb : b ≠ .error .deviceNotFound) :
    t.err ≠ .deviceNotFound := by
  refine unlessFaulted_err_ne_deviceNotFound h fun hrun => ?_
  obtain ⟨e, rfl, hd⟩ | ⟨p, r, s', -, hs, hd⟩ := sendBuilt_next hrun
  · exact deliver_err_ne_deviceNotFound (fun he => hb (congrArg _ he)) hd
  · exact deliver_err_ne_deviceNotFound (sendPayload_code_ne_deviceNotFound hs) hd

section
variable {s t : State}

theorem exec_beginTx_err_ne_deviceNotFound (h : exec .beginTx s = .next t) :
    t.err ≠ .deviceNotFound := by
  cases hp : s.profile.hasTs with
  | false =>
    rw [exec_beginTx_of_not_hasTs hp] at h
    exact bodyCommand_err_ne_deviceNotFound h nofun
  | true =>
    cases hts : s.ts with
    | idle =>
      rw [exec_beginTx_eq_openTransaction hp hts] at h
      refine unlessFaulted_err_ne_deviceNotFound h fun hrun => ?_
      obtain ⟨r, s', hs, rfl⟩ := openTransaction_next hrun
      exact sendPayload_code_ne_deviceNotFound hs
    | inTransaction =>
      rw [exec_beginTx_eq_deliver hp hts] at h
      exact unlessFaulted_err_ne_deviceNotFound h (deliver_err_ne_deviceNotFound (by decide))

theorem exec_endTx_err_ne_deviceNotFound (h : exec .endTx s = .next t) :
    t.err ≠ .deviceNotFound := by
  cases hp : s.profile.hasTs with
  | false =>
    rw [exec_endTx_of_not_hasTs hp] at h
    exact bodyCommand_err_ne_deviceNotFound h nofun
  | true =>
    cases hts : s.ts with
    | idle =>
      rw [exec_endTx_eq_complete hp hts] at h
      refine unlessFaulted_err_ne_deviceNotFound h fun hrun => ?_
      cases hrun
      simp
    | inTransaction =>
      rw [exec_endTx_eq_closeTransaction hp hts] at h
      refine unlessFaulted_err_ne_deviceNotFound h fun hrun => ?_
      obtain ⟨r, s', hs, rfl⟩ := closeTransaction_next hrun
      exact sendPayload_code_ne_deviceNotFound hs

variable {i : Instr}

theorem exec_isCmd_err_ne_deviceNotFound (hi : isCmd i = true) (h : exec i s = .next t) :
    t.err ≠ .deviceNotFound := by
  obtain ⟨b, hb, hbody⟩ | ⟨rfl, -⟩ | ⟨rfl, -⟩ := exec_isCmd_next hi h
  · refine bodyCommand_err_ne_deviceNotFound hbody ?_
    rintro rfl
    obtain he | he := eq_of_build_error hb <;> cases he
  · exact exec_beginTx_err_ne_deviceNotFound h
  · exact exec_endTx_err_ne_deviceNotFound h

theorem exec_feFin_err_ne_deviceNotFound (h : exec .feFin s = .next t) :
    t.err ≠ .deviceNotFound := by
  obtain ⟨-, rfl⟩ := execFeFin_next h
  rw [State.complete_err, FrameEncoder.finishCode]
  split_ifs <;> decide

/-- An operation returns one code, which is not `DeviceNotFound` and goes to `err` too, or it
returns none and leaves `err` (R140, R141). -/
theorem exec_returns_code_or_none (h : exec i s = .next t) :
    (t.err ≠ .deviceNotFound ∧ t.replies = s.replies ++ [.res t.err]) ∨
      (t.err = s.err ∧ ∃ r, t.replies = s.replies ++ r ∧ ∀ c, .res c ∉ r) := by
  cases hi : isCmd i with
  | true =>
    refine .inl ⟨exec_isCmd_err_ne_deviceNotFound hi h, ?_⟩
    obtain ⟨sent, ts, code, -, -, rfl⟩ := exec_isCmd_completesWithin hi h
    rfl
  | false =>
    obtain ⟨-, hfin, hnone⟩ := byteLevelFrame i s t hi h
    by_cases hne : i = .feFin
    · subst hne
      exact .inl ⟨exec_feFin_err_ne_deviceNotFound h, hfin rfl⟩
    · exact .inr (hnone hne)

end

/-- Settles O44: the one code an operation returns, if it returns any, is another. -/
theorem deviceNotFoundNeverRaised : Obligations.DeviceNotFoundNeverRaised := by
  unfold Obligations.DeviceNotFoundNeverRaised
  intro i s t h
  obtain ⟨herr, hreplies⟩ | ⟨herr, r, hreplies, hnone⟩ := exec_returns_code_or_none h
  · rw [hreplies, List.drop_left]
    simp [herr]
  · rw [herr, hreplies, List.drop_left]
    exact ⟨id, fun x hx hres => hnone _ (hres ▸ hx)⟩

end Sys2Proof.Machine

/-! ### A transport that never answers -/

namespace Sys2Proof.Machine

open Sys2Proof.Safety

/-- A send has no end exactly when the half that is awaited stays out and nothing times out (R120,
R170). -/
theorem Answer.ending_eq_none_iff {timeout : Bool} {a : Answer} : a.ending timeout = none ↔
    timeout = false ∧ (a.wr = .never ∨ (a.wr = .yes ∧ a.rd = .never)) := by
  cases hw : a.wr with
  | no => simp [Answer.ending, hw]
  | never => simp [Answer.ending, hw]
  | yes => cases hr : a.rd <;> simp [Answer.ending, hw, hr]

/-- A timeout makes the silent half a failure (R5, R144). -/
theorem Answer.ending_of_timeout {a : Answer} (h : a.wr = .never ∨ (a.wr = .yes ∧ a.rd = .never)) :
    ∃ e, e ≠ .ok ∧ a.ending true = some e := by
  obtain hw | ⟨hw, hr⟩ := h
  · exact ⟨.writeFailed, by decide, by simp [Answer.ending, hw]⟩
  · exact ⟨.readFailed, by decide, by simp [Answer.ending, hw, hr]⟩

section
variable {s : State}

theorem endingAt_of_getElem? {k : Nat} {a : Answer} (h : s.answers[k]? = some a) :
    endingAt s k = a.ending s.profile.transportTimeout := by
  rw [← List.head?_drop] at h
  obtain ⟨rest, hdrop⟩ := List.head?_eq_some_iff.mp h
  simp only [endingAt, hdrop]

theorem endingAt_of_unlisted {k : Nat} (h : s.answers[k]? = none) :
    endingAt s k = some (freeEnding (s.draws + k)) := by
  have hdrop : s.answers.drop k = [] := List.drop_eq_nil_of_le (List.getElem?_eq_none_iff.mp h)
  simp only [endingAt, hdrop]

/-- A send is never answered exactly when its listed answer stays out and there is no timeout
(R170). -/
theorem endingAt_eq_none_iff (k : Nat) : endingAt s k = none ↔
    s.profile.transportTimeout = false ∧
      ∃ a, s.answers[k]? = some a ∧ (a.wr = .never ∨ (a.wr = .yes ∧ a.rd = .never)) := by
  cases hk : s.answers[k]? with
  | none => simp [endingAt_of_unlisted hk]
  | some a => simp [endingAt_of_getElem? hk, Answer.ending_eq_none_iff]

section
variable (hend : endingAt s 0 = none)

include hend

theorem sendPayload_of_unanswered {p : Payload} (hlen : p.length ≤ 61) : sendPayload p s = none :=
  sendPayload_of_silent (encodeFrame_eq_frameOf hlen) hend

theorem sendBuilt_of_unanswered {p : Payload} (hlen : p.length ≤ 61) :
    sendBuilt (.ok p) s = .fault .transportSilent := by
  simp only [sendBuilt, sendPayload_of_unanswered hend hlen]

theorem openTransaction_of_unanswered : openTransaction s = .fault .transportSilent := by
  have hsend : sendPayload beginMarker s = none := sendPayload_of_unanswered hend (by decide)
  simp only [openTransaction, hsend]

theorem closeTransaction_of_unanswered : closeTransaction s = .fault .transportSilent := by
  have hsend : sendPayload endMarker s = none := sendPayload_of_unanswered hend (by decide)
  simp only [closeTransaction, hsend]

/-- Inside a transaction an error waits for the end marker's send (R128). -/
theorem deliver_error_of_unanswered {r : ResultCode} (hopen : s.transactionOpen = true)
    (hr : r ≠ .ok) : deliver r s = .fault .transportSilent := by
  have hsend : sendPayload endMarker s = none := sendPayload_of_unanswered hend (by decide)
  simp only [deliver_error_open hopen hr, autoClose, hsend]

variable (hfault : s.fault = false)

include hfault

/-- `BEGIN` waits for the begin marker's send or, nested, for the end marker's (R124, R130,
R135). -/
theorem exec_beginTx_of_unanswered : exec .beginTx s = .fault .transportSilent := by
  cases hp : s.profile.hasTs with
  | false =>
    rw [exec_beginTx_of_not_hasTs hp, bodyCommand, unlessFaulted_of_unfaulted _ hfault,
      sendBuilt_of_unanswered hend (by decide)]
  | true =>
    cases hts : s.ts with
    | idle =>
      rw [exec_beginTx_eq_openTransaction hp hts, unlessFaulted_of_unfaulted _ hfault,
        openTransaction_of_unanswered hend]
    | inTransaction =>
      rw [exec_beginTx_eq_deliver hp hts, unlessFaulted_of_unfaulted _ hfault,
        deliver_error_of_unanswered hend (transactionOpen_of_inTransaction hp hts) (by decide)]

/-- `END`, where it sends, waits for the end marker's send (R125, R135). -/
theorem exec_endTx_of_unanswered (hopen : s.profile.hasTs = true → s.ts = .inTransaction) :
    exec .endTx s = .fault .transportSilent := by
  cases hp : s.profile.hasTs with
  | false =>
    rw [exec_endTx_of_not_hasTs hp, bodyCommand, unlessFaulted_of_unfaulted _ hfault,
      sendBuilt_of_unanswered hend (by decide)]
  | true =>
    rw [exec_endTx_eq_closeTransaction hp (hopen hp), unlessFaulted_of_unfaulted _ hfault,
      closeTransaction_of_unanswered hend]

end

/-- A send that fails inside a transaction leaves the command to the end marker's send (R128). -/
theorem sendBuilt_of_unanswered_close {p : Payload} {e : SendEnd} (hopen : s.transactionOpen = true)
    (hlen : p.length ≤ 61) (he : e ≠ .ok) (hend : endingAt s 0 = some e)
    (hclose : endingAt s 1 = none) : sendBuilt (.ok p) s = .fault .transportSilent := by
  have hclose' : endingAt (s.recordSend (frameOf p) e) 0 = none :=
    (endingAt_recordSend ..).trans hclose
  have hopen' : (s.recordSend (frameOf p) e).transactionOpen = true := hopen
  rw [sendBuilt_of_fit hlen hend, SendEnd.code_of_ne he,
    deliver_error_of_unanswered hclose' hopen' (by decide)]

end

/-- Settles O39: each operation comes down to one send, the payload's or a marker's, that is never
answered; with a timeout that send ends in a failure. -/
theorem silentTransportHangs : Obligations.SilentTransportHangs := by
  unfold Obligations.SilentTransportHangs
  intro i s hacc hfault
  refine ⟨fun hend => ⟨fun hi p h => ?sent, fun hbegin => ?beginTx, fun hendTx hopen => ?endTx,
      fun hi hp hts e h => ?raised⟩,
    fun hi hp hts p e h he hend hclose => ?failed, endingAt_eq_none_iff,
    fun hi hts htimeout p a rest h hans hsilent => ?timeout⟩
  case sent => rw [exec_eq_sendBuilt hi hacc hfault h.1, sendBuilt_of_unanswered hend h.2]
  case beginTx => rw [hbegin, exec_beginTx_of_unanswered hend hfault]
  case endTx => rw [hendTx, exec_endTx_of_unanswered hend hfault hopen]
  case raised =>
    rw [exec_eq_deliver_of_raises hi hacc hfault h, deliver_error_of_unanswered hend
      (transactionOpen_of_inTransaction hp hts) (raises_ne_ok h)]
  case failed =>
    rw [exec_eq_sendBuilt hi hacc hfault h.1, sendBuilt_of_unanswered_close
      (transactionOpen_of_inTransaction hp hts) h.2 he hend hclose]
  case timeout =>
    obtain ⟨e, he, hending⟩ := Answer.ending_of_timeout hsilent
    have hfirst : s.answers[0]? = some a := by simp [hans]
    have hend : endingAt s 0 = some e := by
      rw [endingAt_of_getElem? hfirst, htimeout, hending]
    exact ⟨e, he, exec_of_failed_send_idle hi hacc hfault h he hend hts⟩

end Sys2Proof.Machine

/-! ### Other ports beside an operation that hangs -/

namespace Sys2Proof.Machine

open Sys2Proof.Safety

section
variable {i : Instr} {s : State}

/-- An operation of `CMD` is never held (R89). -/
theorem heldIn_of_isCmd (ph : Phase) (hi : isCmd i = true) : heldIn ph i = false := by
  cases i with
  | fePush | feFin | fePop => cases hi
  | sendRaw | beginTx | endTx | rawSetting | rawKeyRgb | setMode | setBrightness | setSpeed
  | setDirection | setColorful | setColor | setPollingRate | setGradient => rfl

/-- Only an operation of `CMD` can hang: those of the byte level send nothing (R7). -/
theorem isCmd_of_hang (h : exec i s = .fault .transportSilent) : isCmd i = true := by
  by_contra hi
  obtain ⟨b, rfl⟩ | rfl | rfl := isCmd_eq_false_iff.mp (Bool.eq_false_of_not_eq_true hi)
  all_goals
    simp only [exec, execFePush, execFeFin, execFePop] at h
    split at h <;> cases h

theorem takeFirst_of_ready {ready : Offer → Bool} {o : Offer} (os : List Offer)
    (h : ready o = true) : takeFirst ready (o :: os) = some (o, os) := by
  simp [takeFirst, h]

theorem takeFirst_eq_none {ready : Offer → Bool} {os : List Offer}
    (h : ∀ o ∈ os, ready o = false) : takeFirst ready os = none := by
  induction os with
  | nil => rfl
  | cons o os ih =>
    obtain ⟨ho, hos⟩ := List.forall_mem_cons.mp h
    simp [takeFirst, ho, ih hos]

/-- The byte-level operations that are not held are those a hang does not keep waiting (R170). -/
theorem besideHang_op_eq_true_iff {ph : Phase} {j : Instr} :
    (Offer.op j).besideHang ph = true ↔ isCmd j = false ∧ heldIn ph j = false := by
  simp [Offer.besideHang, isCmd]

/-- An offer ready beside the hang, other than a reset, is carried out, and the operation that hangs
stays offered (R170). -/
theorem besideHang_of_ready {hung o : Offer} {rest : List Offer} (hs : s.offers = o :: rest)
    (hready : o.besideHang s.fe.phase = true) (hrst : o ≠ .rst) :
    besideHang hung s = carryOut o { s with offers := hung :: rest } := by
  cases o with
  | rst => exact absurd rfl hrst
  | op | unassigned | stat => simp only [besideHang, hs, takeFirst_of_ready rest hready]

/-- A reset drops the operation that hangs, with the answers it drew (R160, R170). -/
theorem besideHang_of_rst {hung : Offer} {rest : List Offer} (hs : s.offers = .rst :: rest) :
    besideHang hung s = .next ({ s with
      offers := rest
      answers := s.answers.drop (drawnByHang s.answers)
      draws := s.draws + drawnByHang s.answers }).afterReset := by
  have htake : takeFirst (·.besideHang s.fe.phase) (.rst :: rest) = some (.rst, rest) :=
    takeFirst_of_ready rest rfl
  simp only [besideHang, hs, htake]

theorem besideHang_of_all_waiting {hung : Offer}
    (h : ∀ o ∈ s.offers, o.besideHang s.fe.phase = false) :
    besideHang hung s = .fault .transportSilent := by
  simp only [besideHang, takeFirst_eq_none h]

/-- When the first offer hangs, the step is what goes on beside it: it is an operation of `CMD`, so
it is not passed over as held. -/
theorem step_of_hang {rest : List Offer} (hs : s.offers = .op i :: rest)
    (h : exec i { s with offers := rest } = .fault .transportSilent) :
    step s = besideHang (.op i) { s with offers := rest } := by
  have hheld : (Offer.op i).heldIn s.fe.phase = false := heldIn_of_isCmd _ (isCmd_of_hang h)
  simp only [step, hs, nextOffer_head rest hheld]
  exact takeOffer_of_hang h

end

/-- Settles O57: the step is what goes on beside the hang, for each kind of offer behind it. -/
theorem onlyResetEndsHang : Obligations.OnlyResetEndsHang := by
  unfold Obligations.OnlyResetEndsHang
  intro s rest i hs hhang
  rw [step_of_hang hs hhang]
  refine ⟨fun rest' hrest => ?reset, fun n rest' hrest => ?stat,
    fun j rest' hrest hj hheld => ?byteLevel, fun hall => ?waiting⟩
  case reset => exact ⟨_, besideHang_of_rst hrest, rfl, rfl, rfl, rfl, rfl, rfl⟩
  case stat => exact besideHang_of_ready (o := .stat n) hrest rfl nofun
  case byteLevel =>
    exact besideHang_of_ready (o := .op j) hrest
      (besideHang_op_eq_true_iff.mpr ⟨hj, hheld⟩) nofun
  case waiting =>
    refine besideHang_of_all_waiting fun o ho => ?_
    obtain ⟨j, rfl, hwaits⟩ := hall o ho
    rw [Bool.eq_false_iff, Ne, besideHang_op_eq_true_iff]
    rintro ⟨hj, hheld⟩
    simp [hj, hheld] at hwaits

end Sys2Proof.Machine

/-! ### A payload through the byte level -/

namespace Sys2Proof.Machine

open Sys2Proof.Safety

/-- The registers emptied (10_state R29); the buffer keeps its bytes. -/
def FrameEncoder.emptied (fe : FrameEncoder) : FrameEncoder :=
  { pbuf := fe.pbuf, plen := 0, csum := 0, ovf := false, phase := .load, oidx := 0 }

@[simp] theorem feEmpty_emptied (fe : FrameEncoder) : feEmpty fe.emptied = true := rfl

theorem feEmpty_iff {fe : FrameEncoder} : feEmpty fe = true ↔ fe = fe.emptied := by
  cases fe
  simp only [feEmpty, FrameEncoder.emptied, Bool.and_eq_true, beq_iff_eq, Bool.not_eq_true',
    FrameEncoder.mk.injEq, true_and]
  tauto

/-- An empty encoder with a canonical buffer is sound. -/
theorem frameEncoderSound_of_feEmpty {fe : FrameEncoder} (h : feEmpty fe = true)
    (hm : Memory.wf fe.pbuf = true) : FrameEncoderSound fe := by
  rw [feEmpty_iff.mp h]
  exact frameEncoderSound_of_empty hm

/-- Operations that complete are followed by the rest of the run. -/
theorem runAll_append_of_next {is : List Instr} {s t : State} (js : List Instr)
    (h : runAll is s = .next t) : runAll (is ++ js) s = runAll js t := by
  induction is generalizing s with
  | nil => cases h; rfl
  | cons i is ih =>
    cases hi : exec i s with
    | next u =>
      rw [runAll_cons_of_next is hi] at h
      rw [List.cons_append, runAll_cons_of_next (is ++ js) hi]
      exact ih h
    | fault | refused => simp [runAll, hi] at h

/-! #### Pushing a payload -/

@[simp] theorem foldl_push_phase (fe : FrameEncoder) (p : Payload) :
    (p.foldl FrameEncoder.push fe).phase = fe.phase := by
  induction p generalizing fe with
  | nil => rfl
  | cons b p ih => exact (ih (fe.push b)).trans (push_phase fe b)

section
variable {fe : FrameEncoder} {p : Payload}

theorem frameEncoderSound_foldl_push (h : FrameEncoderSound fe) (hload : fe.phase = .load) :
    FrameEncoderSound (p.foldl FrameEncoder.push fe) := by
  induction p generalizing fe with
  | nil => exact h
  | cons b p ih =>
    exact ih (frameEncoderSound_push b h hload) ((push_phase fe b).trans hload)

/-- Bytes that all find room are accepted in order behind those already there (R85). -/
theorem loaded_foldl_push (hm : Memory.wf fe.pbuf = true) (ho : fe.ovf = false)
    (hp : fe.plen.toNat + p.length ≤ 61) :
    (p.foldl FrameEncoder.push fe).ovf = false ∧
      loaded (p.foldl FrameEncoder.push fe) = loaded fe ++ p := by
  induction p generalizing fe with
  | nil => exact ⟨ho, (List.append_nil _).symm⟩
  | cons b p ih =>
    rw [List.length_cons] at hp
    have hroom : fe.plen.toNat < 61 := by omega
    have ho' : (fe.push b).ovf = false := by simp [push_of_room fe b ho hroom, ho]
    have hp' : (fe.push b).plen.toNat + p.length ≤ 61 := by
      rw [push_of_room fe b ho hroom]
      simp only [plen_succ_toNat hroom]
      omega
    obtain ⟨hovf, hloaded⟩ := ih (wf_push b hm) ho' hp'
    rw [loaded_push b hm ho hroom, List.append_assoc] at hloaded
    exact ⟨hovf, hloaded⟩

/-- More bytes than there is room for set the oversize flag, and no later one clears it (R85). -/
theorem foldl_push_ovf_of_oversize (h : fe.ovf = true ∨ 61 < fe.plen.toNat + p.length)
    (hplen : fe.plen.toNat ≤ 61) : (p.foldl FrameEncoder.push fe).ovf = true := by
  induction p generalizing fe with
  | nil => exact h.resolve_right (by simpa using hplen)
  | cons b p ih =>
    rw [List.length_cons] at h
    rw [List.foldl_cons]
    by_cases hroom : fe.ovf = false ∧ fe.plen.toNat < 61
    · obtain ⟨ho, hp⟩ := hroom
      rw [push_of_room fe b ho hp]
      refine ih (.inr ?_) ?_ <;> simp only [plen_succ_toNat hp]
      · have := h.resolve_left (by simp [ho])
        omega
      · omega
    · have hno : fe.ovf = true ∨ 61 ≤ fe.plen.toNat := by
        simpa only [not_and_or, Bool.not_eq_false, not_lt] using hroom
      rw [push_of_no_room fe b hno]
      exact ih (.inl rfl) hplen

end

section
variable {s : State}

/-- In LOAD every push completes, and only the encoder changes (R85). -/
theorem runAll_map_fePush (p : Payload) (hload : s.fe.phase = .load) :
    runAll (p.map .fePush) s = .next { s with fe := p.foldl FrameEncoder.push s.fe } := by
  induction p generalizing s with
  | nil => rfl
  | cons b p ih =>
    rw [List.map_cons, runAll_cons_of_next _ (exec_fePush_of_load b hload)]
    exact ih ((push_phase s.fe b).trans hload)

/-! #### Popping a frame -/

theorem popReplies_getElem? (f : Frame) (k : Nat) :
    (popReplies f)[k]? = f[k]?.map fun b => .popped b (decide (k = 0)) (decide (k = 63)) := by
  simp [popReplies, List.getElem?_zipIdx, Function.comp_def]

theorem popReplies_length (f : Frame) : (popReplies f).length = f.length := by
  simp [popReplies]

/-- What a sound emitting encoder offers at index `k` is that index's reply of its payload's frame
(R87, R88). -/
theorem popReplies_getElem?_eq_popReply {fe : FrameEncoder} {f : Frame} (h : FrameEncoderSound fe)
    (hemit : fe.phase = .emit) (hf : encodeFrame (loaded fe) = .ok f) :
    (popReplies f)[fe.oidx.toNat]? = some fe.popReply := by
  obtain ⟨f', hf', hbyte⟩ := emittedBytesAreTheFrame fe fe.oidx h hemit
  obtain rfl : f = f' := by simpa [hf] using hf'
  rw [popReplies_getElem?, hbyte]
  rfl

/-- The emission index is free in EMIT (R28). -/
theorem frameEncoderSound_withOidx {fe : FrameEncoder} (h : FrameEncoderSound fe)
    (hemit : fe.phase = .emit) (k : BitVec 6) : FrameEncoderSound { fe with oidx := k } :=
  ⟨h.pbufCanonical, h.plenBound, h.csumCurrent, h.ovfFull, by simp [hemit]⟩

/-- A sound emitting encoder has no oversize payload (R26). -/
theorem ovf_eq_false_of_emit {fe : FrameEncoder} (h : FrameEncoderSound fe)
    (hemit : fe.phase = .emit) : fe.ovf = false := by
  by_contra hne
  obtain ⟨hload, -⟩ := h.ovfFull (by simpa using hne)
  simp [hemit] at hload

/-- Every frame has 64 bytes (R91). -/
theorem length_of_encodeFrame {p : Payload} {f : Frame} (h : encodeFrame p = .ok f) :
    f.length = 64 := by
  obtain ⟨hparts, -⟩ := encodeProperties
  exact (hparts p f h).1

/-- `s` after it emitted the first `k` bytes of frame `f` (R88). -/
def afterPops (s : State) (f : Frame) (k : Nat) : State :=
  { s with
    fe := { s.fe with oidx := BitVec.ofNat 6 k }
    replies := s.replies ++ (popReplies f).take k }

theorem pop_afterPops_of_lt (s : State) (f : Frame) {k : Nat} (hk : k < 63) :
    (afterPops s f k).fe.pop = (afterPops s f (k + 1)).fe := by
  have hmore : (afterPops s f k).fe.oidx.toNat ≠ 63 := by
    rw [afterPops, BitVec.toNat_ofNat]
    omega
  rw [pop_of_more _ hmore]
  simp [afterPops, BitVec.ofNat_add]

section
variable {f : Frame} (h : FrameEncoderSound s.fe) (hemit : s.fe.phase = .emit)
  (hf : encodeFrame (loaded s.fe) = .ok f)

include h hemit hf

/-- The next pop returns the next byte of the frame with its marks (R88). -/
theorem exec_fePop_afterPops {k : Nat} (hk : k < 64) :
    exec .fePop (afterPops s f k) = .next { s with
      fe := (afterPops s f k).fe.pop
      replies := s.replies ++ (popReplies f).take (k + 1) } := by
  have hreply : (popReplies f)[k]? = some (afterPops s f k).fe.popReply := by
    have hindex := popReplies_getElem?_eq_popReply (fe := (afterPops s f k).fe)
      (frameEncoderSound_withOidx h hemit _) hemit hf
    rwa [afterPops, BitVec.toNat_ofNat, Nat.mod_eq_of_lt hk] at hindex
  rw [exec_fePop_of_emit (s := afterPops s f k) hemit, List.take_add_one, hreply,
    ← List.append_assoc]
  rfl

/-- Before the last pop, the bytes come in order and the index counts them (R88). -/
theorem runAll_fePop_of_lt (h0 : s.fe.oidx = 0) {k : Nat} (hk : k < 64) :
    runAll (List.replicate k .fePop) s = .next (afterPops s f k) := by
  induction k with
  | zero =>
    have hoidx : BitVec.ofNat 6 0 = s.fe.oidx := h0.symm
    simp [runAll, afterPops, hoidx]
  | succ k ih =>
    rw [List.replicate_succ', runAll_append_of_next _ (ih (by omega)), runAll_singleton,
      exec_fePop_afterPops h hemit hf (by omega), pop_afterPops_of_lt s f (by omega)]
    rfl

/-- Sixty-four pops emit the frame and empty the encoder (R88, R90). -/
theorem runAll_fePop_frame (h0 : s.fe.oidx = 0) :
    runAll (List.replicate 64 .fePop) s = .next { s with
      fe := s.fe.emptied, replies := s.replies ++ popReplies f } := by
  have hall : (popReplies f).take 64 = popReplies f := by
    rw [List.take_of_length_le]
    rw [popReplies_length, length_of_encodeFrame hf]
  have hovf := ovf_eq_false_of_emit h hemit
  have hpop : (afterPops s f 63).fe.pop = s.fe.emptied := by
    rw [pop_of_last (afterPops s f 63).fe rfl]
    simp [afterPops, FrameEncoder.emptied, hovf]
  rw [List.replicate_succ', runAll_append_of_next _ (runAll_fePop_of_lt h hemit hf h0 (by decide)),
    runAll_singleton, exec_fePop_afterPops h hemit hf (by decide), hpop, hall]

end

/-! #### The whole payload -/

section
variable {p : Payload} (hempty : feEmpty s.fe = true) (hm : Memory.wf s.fe.pbuf = true)

include hempty

theorem load_of_feEmpty : s.fe.phase = .load := by
  rw [feEmpty_iff.mp hempty]
  rfl

theorem ovf_of_feEmpty : s.fe.ovf = false := by
  rw [feEmpty_iff.mp hempty]
  rfl

theorem plen_of_feEmpty : s.fe.plen.toNat = 0 := by
  rw [feEmpty_iff.mp hempty]
  rfl

include hm

/-- From FE empty, any pushes lead to sound registers in LOAD. -/
theorem frameEncoderSound_and_load_of_pushes (p : Payload) :
    FrameEncoderSound (p.foldl FrameEncoder.push s.fe) ∧
      (p.foldl FrameEncoder.push s.fe).phase = .load := by
  have hload := load_of_feEmpty hempty
  exact ⟨frameEncoderSound_foldl_push (frameEncoderSound_of_feEmpty hempty hm) hload,
    (foldl_push_phase s.fe p).trans hload⟩

/-- From FE empty, a payload that fits is what the pushes load (R85). -/
theorem loaded_pushes_of_fit (hp : p.length ≤ 61) :
    (p.foldl FrameEncoder.push s.fe).ovf = false ∧
      loaded (p.foldl FrameEncoder.push s.fe) = p := by
  have hplen := plen_of_feEmpty hempty
  have hnone : loaded s.fe = [] := List.eq_nil_of_length_eq_zero ((loaded_length _).trans hplen)
  simpa [hnone] using loaded_foldl_push (p := p) hm (ovf_of_feEmpty hempty) (by omega)

/-- From FE empty, a payload that fits is pushed, finished and popped as its frame, and FE is empty
again (R90 (a)). -/
theorem runAll_frame_of_fit (hp : p.length ≤ 61) :
    ∃ fe, feEmpty fe = true ∧
      runAll (p.map .fePush ++ .feFin :: List.replicate 64 .fePop) s = .next { s with
        fe := fe, err := .ok, replies := s.replies ++ .res .ok :: popReplies (frameOf p) } := by
  obtain ⟨hsound, hload⟩ := frameEncoderSound_and_load_of_pushes hempty hm p
  obtain ⟨hovf, hloaded⟩ := loaded_pushes_of_fit hempty hm hp
  have hpushes := runAll_map_fePush p (load_of_feEmpty hempty)
  generalize p.foldl FrameEncoder.push s.fe = fe at *
  have hfin : exec .feFin { s with fe := fe } =
      .next ({ s with fe := fe.finish }.complete .ok) := by
    rw [exec_feFin_of_load hload, finishCode_of_fit hovf]
  have hframe : encodeFrame (loaded fe.finish) = .ok (frameOf p) := by
    rw [finish_of_fit fe hovf, ← encodeFrame_eq_frameOf hp, ← hloaded]
    rfl
  have hpops := runAll_fePop_frame (s := { s with fe := fe.finish }.complete .ok)
    (frameEncoderSound_finish hsound hload) ((finish_phase_eq_emit_iff hload).mpr hovf) hframe
    (by simp [finish_of_fit fe hovf])
  refine ⟨_, feEmpty_emptied fe.finish, ?_⟩
  rw [runAll_append_of_next _ hpushes, runAll_cons_of_next _ hfin, hpops]
  simp [State.complete]

/-- From FE empty, a payload that does not fit is reported at its end and FE is empty again
(R90 (b)). -/
theorem runAll_feFin_of_oversize (hp : 61 < p.length) :
    ∃ fe, feEmpty fe = true ∧
      runAll (p.map .fePush ++ [.feFin]) s = .next { s with
        fe := fe, err := .payloadTooLarge, replies := s.replies ++ [.res .payloadTooLarge] } := by
  obtain ⟨hsound, hload⟩ := frameEncoderSound_and_load_of_pushes hempty hm p
  have hplen := plen_of_feEmpty hempty
  have hovf := foldl_push_ovf_of_oversize (p := p) (fe := s.fe) (.inr (by omega)) (by omega)
  have hpushes := runAll_map_fePush p (load_of_feEmpty hempty)
  generalize p.foldl FrameEncoder.push s.fe = fe at *
  refine ⟨fe.finish, ?_, ?_⟩
  · rw [finish_of_ovf fe hovf, hload, hsound.oidxRest hload]
    rfl
  · rw [runAll_append_of_next _ hpushes, runAll_singleton, exec_feFin_of_load hload,
      finishCode_of_ovf hovf]
    rfl

end
end

/-- Settles O13: the pushes load the payload or set the oversize flag, and the pops emit the frame
of what was loaded. -/
theorem byteLevelRefinesEncode : Obligations.ByteLevelRefinesEncode := by
  unfold Obligations.ByteLevelRefinesEncode
  intro s p hempty hm _
  refine ⟨fun hp => ?fit, fun hp => ?oversize⟩
  case fit =>
    obtain ⟨fe, hfe, hrun⟩ := runAll_frame_of_fit hempty hm hp
    exact ⟨_, _, encodeFrame_eq_frameOf hp, hrun, rfl, hfe, rfl, rfl⟩
  case oversize =>
    obtain ⟨fe, hfe, hrun⟩ := runAll_feFin_of_oversize hempty hm hp
    exact ⟨_, encodeFrame_of_gt hp, hrun, rfl, hfe,
      exec_fePop_of_load (load_of_feEmpty hfe), rfl, rfl⟩

end Sys2Proof.Machine

/-! ### Which offer a step turns to -/

namespace Sys2Proof.Machine

open Sys2Proof.Safety

/-- A held offer is passed over for a ready one behind it (R89). -/
theorem nextOffer_of_held_head {ph : Phase} {o o' : Offer} (rest : List Offer)
    (hheld : o.heldIn ph = true) (hready : o'.heldIn ph = false) :
    nextOffer ph (o :: o' :: rest) = some (o', o :: rest) := by
  simp [nextOffer, takeFirst, hheld, hready]

/-- Settles O12: the push is held in EMIT, the pop is not, and a pop never hangs. -/
theorem heldPushWaitsForPop : Obligations.HeldPushWaitsForPop := by
  unfold Obligations.HeldPushWaitsForPop
  intro b s rest hemit hs
  have hnext : nextOffer s.fe.phase s.offers = some (.op .fePop, .op (.fePush b) :: rest) := by
    rw [hs, hemit]
    exact nextOffer_of_held_head rest rfl rfl
  simp only [step, hnext]
  refine takeOffer_of_ne fun hhang => ?_
  have hcmd : isCmd .fePop = true := isCmd_of_hang hhang
  cases hcmd

/-- Settles O55: the first offer is ready and does not hang, or it is the only one. -/
theorem stepRunsOfferedOperation : Obligations.StepRunsOfferedOperation := by
  unfold Obligations.StepRunsOfferedOperation
  intro s rest i hs h
  obtain ⟨hheld, hhang⟩ | rfl := h
  · exact step_of_head hs hheld hhang
  · exact step_of_op_alone hs

/-! ### What the block does not accept -/

theorem isCmd_of_isBuilder {i : Instr} (h : isBuilder i = true) : isCmd i = true := by
  by_contra hi
  obtain ⟨b, rfl⟩ | rfl | rfl := isCmd_eq_false_iff.mp (Bool.eq_false_of_not_eq_true hi)
  all_goals cases h

/-- Without the builder unit its operations are refused (R152). -/
theorem exec_of_builder_absent {i : Instr} {s : State} (hi : isBuilder i = true)
    (hcb : s.profile.hasCb = false) : exec i s = .refused .builderAbsent := by
  obtain ⟨b, hb⟩ := Option.isSome_iff_exists.mp (isCmd_of_isBuilder hi)
  have hacc : accepted i s = false := by simp [accepted, hi, hcb]
  simp [exec_of_isBody (isBody_of_isBuilder hi) hb, hacc]

/-- A code that R70 does not assign is no operation, whatever follows it. -/
theorem decodeOperands_of_unassigned {op : Byte} (r : List Byte)
    (h : op.toNat ∉ [0x00, 0x01, 0x02, 0x06, 0x11, 0x20, 0x21, 0x22, 0x23, 0x24, 0x25, 0x2F, 0x31,
      0x80, 0x81, 0x82]) : decodeOperands op r = .error (.unassigned op) := by
  unfold decodeOperands
  split
  case h_17 => rfl
  all_goals
    next hop => exact absurd (by simp [hop]) h

/-- Bytes that begin no operation are not read as one. -/
theorem modelSerialisation_read_of_error {bytes : List Byte} {e : DecodeError}
    (h : decode bytes = .error e) : modelSerialisation.read bytes = none := by
  simp [modelSerialisation, h]

/-- Settles O53: an unassigned code matches no arm of the decoder, and a builder operation without
its unit is refused before its payload is looked at. -/
theorem unassignedNotAccepted : Obligations.UnassignedNotAccepted := by
  unfold Obligations.UnassignedNotAccepted
  refine ⟨fun op r s rest hop => ?_, fun i s hi hcb => exec_of_builder_absent hi hcb⟩
  have hdecode : decode (op :: r) = .error (.unassigned op) := decodeOperands_of_unassigned r hop
  exact ⟨hdecode, State.offerWires_of_none (modelSerialisation_read_of_error hdecode),
    fun hs => step_of_head hs rfl nofun⟩

/-- Settles O54: each word is read by the decoder. -/
theorem codesDecode : Obligations.CodesDecode := by
  unfold Obligations.CodesDecode
  exact ⟨rfl, rfl, rfl, rfl, by decide, by decide⟩

/-! ### Reset -/

/-- An offered reset is the next step, from any state (R160). -/
theorem step_of_rst {s : State} {rest : List Offer} (hs : s.offers = .rst :: rest) :
    step s = .next { s with offers := rest }.afterReset :=
  step_of_head hs rfl nofun

/-- Settles O46: the step is the reset, which names every field. -/
theorem resetFromAnyState : Obligations.ResetFromAnyState := by
  unfold Obligations.ResetFromAnyState
  intro s rest hs
  exact ⟨_, step_of_rst hs, rfl, rfl, rfl, rfl, rfl, rfl, rfl⟩

/-- Settles O48: the state after reset is reset by a reset, and any reset state is sound. -/
theorem resetIsSound : Obligations.ResetIsSound := by
  unfold Obligations.ResetIsSound
  exact ⟨afterReset_sound State.reset, rfl, rfl, rfl, rfl⟩

section
variable (s : State)

/-- After a reset `STATUS` reads 0 (R162), with the sequencer or without. -/
theorem status_afterReset : s.afterReset.status = 0 := by
  have hts : s.afterReset.tsBit = 0 := by
    cases hp : s.profile.hasTs <;> simp [State.tsBit, hp, TsState.bit]
  simp [State.status, hts, FrameEncoder.reset, ResultCode.bits, Phase.bit]

/-- After a reset the status registers read 0 (R162). -/
theorem readStat_afterReset (n : Byte) : s.afterReset.readStat n = 0 := by
  unfold State.readStat
  split
  case h_1 => rw [status_afterReset]; rfl
  all_goals rfl

theorem feEmpty_afterReset : feEmpty s.afterReset.fe = true := rfl

end

/-- Settles O47: the registers hold their reset values, FE empty and Idle, from which each kind of
operation is already known to answer. -/
theorem readyAfterReset : Obligations.ReadyAfterReset := by
  unfold Obligations.ReadyAfterReset
  intro s t rest hs hstep
  rw [step_of_rst hs] at hstep
  cases hstep
  generalize { s with offers := rest } = s'
  obtain ⟨fe, -, hframe⟩ :=
    runAll_frame_of_fit (p := []) (feEmpty_afterReset s') wf_reset (by decide)
  exact ⟨fun n _ => readStat_afterReset s' n, fun b => ⟨_, exec_fePush_of_load b rfl⟩,
    exec_fePop_of_load rfl, fun i hi hacc h => exec_isCmd_completes h hi hacc,
    fun hp => exec_endTx_of_idle hp rfl rfl,
    _, _, encodeFrame_eq_frameOf (by decide), hframe, rfl⟩

end Sys2Proof.Machine
